-- ==== Sys2Proof/Word.lean ====
section
/-! DEFINITION. The bit-vector types of the D2I (R10, R12, 00_scope.md). Bit 0 is the least significant bit
of every value, and every value is unsigned (R12). -/

namespace Sys2Proof

/-- The data unit of the host bus, `BW` = 32 bits (R10). -/
abbrev Word := BitVec 32

/-- One byte of the digest (R37). -/
abbrev Byte := BitVec 8

/-- A byte offset into the register window, `AW` = 12 bits (R10). -/
abbrev Offset := BitVec 12

end Sys2Proof
end

