-- ==== Sys2Proof/Bus.lean ====
section
/-! DEFINITION. What crosses the D2I's boundary: host bus accesses and their responses (R97, R205), the reset
input (R260), and the two kinds of encoded operation of R90. -/

namespace Sys2Proof

/-- `DIR` of an access, with the data a write carries (R97). -/
inductive BusOp where
  | read
  | write (v : Word)
deriving DecidableEq, Repr

/-- `SZ` of an access: "8, 16, 32, or wider" (R97; 64-bit and burst accesses are wider, R63). -/
inductive BusSize where
  | byte
  | half
  | word
  | wider
deriving DecidableEq, Repr

/-- One host bus transaction (R97). `addr` is the byte address on the bus, of which the D2I decodes
`addr[11:0]` only (R68; log 8). -/
structure Access where
  op   : BusOp
  size : BusSize
  addr : Nat
deriving DecidableEq, Repr

/-- The D2I's answer on the bus (glossary of 00_scope.md; R205). -/
inductive BusResp where
  /-- no access has been answered since reset (log 2) -/
  | idle
  /-- OKAY to a write -/
  | okay
  /-- OKAY to a read, with its data -/
  | okayData (v : Word)
  /-- BUSERR: the data is absent, not zero -/
  | busErr
deriving DecidableEq, Repr

/-- What the outside can do to the D2I: present an access, or assert and release reset (R20, R261). -/
inductive HostEvent where
  | access (x : Access)
  | reset
deriving DecidableEq, Repr

/-- What a word written to CMD means (R94). -/
inductive Command where
  | nop
  | setl (l : BitVec 16)
  | setn (nb : BitVec 8)
  | convert
  | clear
  | illegal (w : Word)
deriving DecidableEq, Repr

/-- The two kinds of encoded operation (R90). -/
inductive Encoded where
  | command (w : Word)
  | access (x : Access)
deriving DecidableEq, Repr

end Sys2Proof
end

