-- ==== Sys2Proof/Syntax.lean ====
section
/-! DEFINITION. `Instr`: one constructor per row of spec/opcode_table.json, the commands of R94 and R95 and the
access forms of R97. -/

namespace Sys2Proof

/-- An operation of the D2I. The first six are command words written to CMD, the others host accesses. -/
inductive Instr where
  /-- NOP, R170 -/
  | nop
  /-- SETL, target bit length `l`, R120 -/
  | setl (l : BitVec 16)
  /-- SETN, digest length `nb` in bytes, R125 -/
  | setn (nb : BitVec 8)
  /-- CONVERT, R140 -/
  | convert
  /-- CLEAR, R172 -/
  | clear
  /-- any other command word, R95 -/
  | illegalCmd (w : Word)
  /-- WR_CMD: the command word `w` is written to CMD, R190 -/
  | wrCmd (w : Word)
  /-- WR_DIGEST: `v` is written to DIGEST_k, R193 -/
  | wrDigest (k : Fin 16) (v : Word)
  /-- WR_IGNORED: `v` is written to an offset that takes no write, R194 -/
  | wrIgnored (a : Offset) (v : Word)
  /-- RD_ID, R195 -/
  | rdId
  /-- RD_PARAM, R196 -/
  | rdParam
  /-- RD_CMD, R197 -/
  | rdCmd
  /-- RD_STATUS, R198 -/
  | rdStatus
  /-- RD_CFG_L, R199 -/
  | rdCfgL
  /-- RD_CFG_N, R200 -/
  | rdCfgN
  /-- RD_SHAMT, R201 -/
  | rdShamt
  /-- RD_DIGEST: DIGEST_k is read, R202 -/
  | rdDigest (k : Fin 16)
  /-- RD_RESULT: RESULT_k is read, R203 -/
  | rdResult (k : Fin 16)
  /-- RD_RESERVED: a read of an offset no register has, R204 -/
  | rdReserved (a : Offset)
  /-- BUSERR: an access that is not 32 bits wide or not word aligned, R205 -/
  | busErr (op : BusOp) (size : BusSize) (a : Offset)
deriving DecidableEq, Repr

end Sys2Proof
end

