-- ==== Sys2Proof/WellFormed.lean ====
section
/-! DEFINITION. When an `Instr` is one the encoding can express: the catch-all forms (ILLEGAL_CMD, WR_IGNORED,
RD_RESERVED, BUSERR) stand only for what no other row takes (R94, R95, R97, R194, R204, R205). -/

namespace Sys2Proof

/-- One row of the match/mask table of R94. -/
structure MaskRow where
  mnemonic : String
  value    : Word
  mask     : Word
deriving DecidableEq, Repr

/-- A word selects a command when `(w & mask) == match` (R94). -/
def MaskRow.selects (r : MaskRow) (w : Word) : Bool :=
  w &&& r.mask == r.value

/-- The match/mask pairs of R94. -/
def commandRows : List MaskRow :=
  [ ⟨"NOP",     0x00000000#32, 0xFFFFFFFF#32⟩,
    ⟨"SETL",    0x01000000#32, 0xFFFF0000#32⟩,
    ⟨"SETN",    0x02000000#32, 0xFFFFFF00#32⟩,
    ⟨"CONVERT", 0x03000000#32, 0xFFFFFFFF#32⟩,
    ⟨"CLEAR",   0x04000000#32, 0xFFFFFFFF#32⟩ ]

/-- `addr[1:0] = 00` (R63). -/
def wordAligned (a : Offset) : Bool :=
  a.toNat % 4 == 0

/-- The DIGEST window 0x040..0x07C (R23). -/
def inDigestWindow (a : Offset) : Bool :=
  0x040 ≤ a.toNat && a.toNat ≤ 0x07C

/-- The RESULT window 0x080..0x0BC (R23). -/
def inResultWindow (a : Offset) : Bool :=
  0x080 ≤ a.toNat && a.toNat ≤ 0x0BC

/-- The offsets of the single-word registers ID, PARAM, CMD, STATUS, CFG_L, CFG_N and SHAMT (R23). -/
def registerOffsets : List Nat :=
  [0x000, 0x004, 0x008, 0x00C, 0x010, 0x014, 0x018]

/-- The encoding can express `i`. Every field value of the other constructors is encodable (R93, R97). -/
def Instr.wellFormed : Instr → Bool
  | .nop => true
  | .setl _ => true
  | .setn _ => true
  | .convert => true
  | .clear => true
  | .illegalCmd w => !commandRows.any (·.selects w)
  | .wrCmd _ => true
  | .wrDigest _ _ => true
  | .wrIgnored a _ => wordAligned a && a.toNat != 0x008 && !inDigestWindow a
  | .rdId => true
  | .rdParam => true
  | .rdCmd => true
  | .rdStatus => true
  | .rdCfgL => true
  | .rdCfgN => true
  | .rdShamt => true
  | .rdDigest _ => true
  | .rdResult _ => true
  | .rdReserved a =>
      wordAligned a && !registerOffsets.contains a.toNat && !inDigestWindow a && !inResultWindow a
  | .busErr _ size a => size != .word || !wordAligned a

end Sys2Proof
end

