-- ==== Sys2Proof/Decode.lean ====
section
/-! DEFINITION. The decoder of command words (R94) and of access descriptors (R97), total on both, and after it
the encoder, written from the same tables. No encoding is left without a meaning (R95), so nothing is rejected:
an illegal word decodes to ILLEGAL_CMD and a refused access to BUSERR, by those names. -/

namespace Sys2Proof

/-! ### Command words -/

/-- The command a word written to CMD means. The first line that matches decides (R94). -/
def decodeCommand (w : Word) : Command :=
  let opc := w.extractLsb' 24 8
  if opc = 0x00#8 ∧ w.extractLsb' 0 24 = 0#24 then .nop
  else if opc = 0x01#8 ∧ w.extractLsb' 16 8 = 0#8 then .setl (w.extractLsb' 0 16)
  else if opc = 0x02#8 ∧ w.extractLsb' 8 16 = 0#16 then .setn (w.extractLsb' 0 8)
  else if opc = 0x03#8 ∧ w.extractLsb' 0 24 = 0#24 then .convert
  else if opc = 0x04#8 ∧ w.extractLsb' 0 24 = 0#24 then .clear
  else .illegal w

/-- The row of the opcode table a command is. -/
def instrOfCommand : Command → Instr
  | .nop => .nop
  | .setl l => .setl l
  | .setn nb => .setn nb
  | .convert => .convert
  | .clear => .clear
  | .illegal w => .illegalCmd w

/-! ### Host accesses -/

/-- The byte offset `A = addr[11:0]` of an access (R68, R97). -/
def accessOffset (x : Access) : Offset :=
  BitVec.ofNat 12 x.addr

/-- The bus check, the first of the checks an access meets: 32 bits wide and `A[1:0] = 0` (R63, R229). -/
def busAccepts (x : Access) : Bool :=
  x.size == .word && (accessOffset x).extractLsb' 0 2 == 0#2

/-- `k = (A - base) / 4`, the number of a word of a 16-word window (R97). -/
def windowIndex (base : Nat) (a : Offset) : Fin 16 :=
  Fin.ofNat 16 ((a.toNat - base) / 4)

/-- The form of an accepted write of `v` to offset `a` (R97). -/
def decodeWrite (a : Offset) (v : Word) : Instr :=
  if a = 0x008#12 then .wrCmd v
  else if 0x040#12 ≤ a ∧ a ≤ 0x07C#12 then .wrDigest (windowIndex 0x040 a) v
  else .wrIgnored a v

/-- The form of an accepted read of offset `a` (R97). -/
def decodeRead (a : Offset) : Instr :=
  if a = 0x000#12 then .rdId
  else if a = 0x004#12 then .rdParam
  else if a = 0x008#12 then .rdCmd
  else if a = 0x00C#12 then .rdStatus
  else if a = 0x010#12 then .rdCfgL
  else if a = 0x014#12 then .rdCfgN
  else if a = 0x018#12 then .rdShamt
  else if 0x040#12 ≤ a ∧ a ≤ 0x07C#12 then .rdDigest (windowIndex 0x040 a)
  else if 0x080#12 ≤ a ∧ a ≤ 0x0BC#12 then .rdResult (windowIndex 0x080 a)
  else .rdReserved a

/-- The form of a host access. The first line of R97 that matches decides. -/
def decodeAccess (x : Access) : Instr :=
  if busAccepts x then
    match x.op with
    | .write v => decodeWrite (accessOffset x) v
    | .read => decodeRead (accessOffset x)
  else .busErr x.op x.size (accessOffset x)

/-- The operation an encoding of either kind stands for (R90). -/
def decode : Encoded → Instr
  | .command w => instrOfCommand (decodeCommand w)
  | .access x => decodeAccess x

/-- The command an operation performs, if it performs one: a command itself, or what a write to CMD decodes to
(R190). -/
def performedCommand : Instr → Option Command
  | .nop => some .nop
  | .setl l => some (.setl l)
  | .setn nb => some (.setn nb)
  | .convert => some .convert
  | .clear => some .clear
  | .illegalCmd w => some (.illegal w)
  | .wrCmd w => some (decodeCommand w)
  | .wrDigest _ _ => none
  | .wrIgnored _ _ => none
  | .rdId => none
  | .rdParam => none
  | .rdCmd => none
  | .rdStatus => none
  | .rdCfgL => none
  | .rdCfgN => none
  | .rdShamt => none
  | .rdDigest _ => none
  | .rdResult _ => none
  | .rdReserved _ => none
  | .busErr _ _ _ => none

/-! ### The encoder -/

/-- A command word: OPC in bits 31:24, OPERAND in bits 23:0 (R91). -/
def commandWord (opc : BitVec 8) (operand : BitVec 24) : Word :=
  opc ++ operand

/-- An accepted access: 32 bits wide, at an offset of the window. -/
def wordAccess (op : BusOp) (a : Nat) : Access :=
  { op := op, size := .word, addr := a }

/-- The encoding of an operation (R92 for commands, R23 and R97 for accesses). -/
def encode : Instr → Encoded
  | .nop => .command (commandWord 0x00#8 0#24)
  | .setl l => .command (commandWord 0x01#8 (0#8 ++ l))
  | .setn nb => .command (commandWord 0x02#8 (0#16 ++ nb))
  | .convert => .command (commandWord 0x03#8 0#24)
  | .clear => .command (commandWord 0x04#8 0#24)
  | .illegalCmd w => .command w
  | .wrCmd w => .access (wordAccess (.write w) 0x008)
  | .wrDigest k v => .access (wordAccess (.write v) (0x040 + 4 * k.val))
  | .wrIgnored a v => .access (wordAccess (.write v) a.toNat)
  | .rdId => .access (wordAccess .read 0x000)
  | .rdParam => .access (wordAccess .read 0x004)
  | .rdCmd => .access (wordAccess .read 0x008)
  | .rdStatus => .access (wordAccess .read 0x00C)
  | .rdCfgL => .access (wordAccess .read 0x010)
  | .rdCfgN => .access (wordAccess .read 0x014)
  | .rdShamt => .access (wordAccess .read 0x018)
  | .rdDigest k => .access (wordAccess .read (0x040 + 4 * k.val))
  | .rdResult k => .access (wordAccess .read (0x080 + 4 * k.val))
  | .rdReserved a => .access (wordAccess .read a.toNat)
  | .busErr op size a => .access { op := op, size := size, addr := a.toNat }

/-! ### Table words

The table gives a command 32 bits and an access form the 13 bits `{DIR, A[11:0]}`. The size and the write data,
which R97 gives an access beside them, have no place in the table: here the size is the code in bits 15:13, zero
for the 32-bit access every row but BUSERR means, and the data is bits 47:16 (log 6). -/

/-- The size a code in bits 15:13 stands for (log 6). -/
def sizeOfCode (c : BitVec 3) : BusSize :=
  if c = 0#3 then .word else if c = 1#3 then .byte else if c = 2#3 then .half else .wider

/-- A code of a size (log 6). -/
def codeOfSize : BusSize → BitVec 3
  | .word => 0#3
  | .byte => 1#3
  | .half => 2#3
  | .wider => 3#3

/-- The access that 48 bits lay out: A in 11:0, DIR in 12 (R97), the size code in 15:13, data in 47:16. -/
def accessOfBits (b : BitVec 48) : Access :=
  { op := if b.extractLsb' 12 1 = 1#1 then .write (b.extractLsb' 16 32) else .read,
    size := sizeOfCode (b.extractLsb' 13 3),
    addr := (b.extractLsb' 0 12).toNat }

/-- The 48 bits of an access. -/
def bitsOfAccess (x : Access) : BitVec 48 :=
  match x.op with
  | .write v => v ++ codeOfSize x.size ++ 1#1 ++ accessOffset x
  | .read => 0#32 ++ codeOfSize x.size ++ 0#1 ++ accessOffset x

/-- The encoded operation a table word is: a row of 32 bits is a command, any other an access (R90). -/
def encodedOfTableWord (nbits w : Nat) : Encoded :=
  if nbits = 32 then .command (BitVec.ofNat 32 w) else .access (accessOfBits (BitVec.ofNat 48 w))

/-- An encoding as a table word: how many bits, and the bits. -/
def tableWordOfEncoded : Encoded → Nat × Nat
  | .command w => (32, w.toNat)
  | .access x => (48, (bitsOfAccess x).toNat)

/-- The operation the decoder reads from a table word. Every word has one (R95, R97). -/
def decodeTableWord (nbits w : Nat) : Option Instr :=
  some (decode (encodedOfTableWord nbits w))

/-- The host access by which an encoded operation reaches the D2I: a command word is written to CMD (R27, R99). -/
def accessOfEncoded : Encoded → Access
  | .command w => wordAccess (.write w) 0x008
  | .access x => x

end Sys2Proof
end

