-- ==== Sys2Proof/Config.lean ====
section
/-! DEFINITION. The implementation parameters of 00_scope.md R7 to R11, the two read-only constants of
10_state.md R25 and R26, and the OPEN parameters of 93_implementation_defined.md. An OPEN parameter has no
body: no proof can learn a value of it. -/

namespace Sys2Proof.Config

/-- `NMAX_BYTES`, the capacity of the digest buffer in bytes (R7). -/
def nmaxBytes : Nat := 64

/-- `NMAX`, the largest digest in bits (R7). -/
def nmax : Nat := 8 * nmaxBytes

/-- `LW`, the width of the target-bit-length field (R8). -/
def lw : Nat := 16

/-- `RW`, the width of RESULT (R9). -/
def rw : Nat := nmax

/-- `BW`, the data width of the host bus (R10). -/
def bw : Nat := 32

/-- `AW`, the byte-offset address width of the host bus (R10). -/
def aw : Nat := 12

/-- `ID`, the ASCII bytes "D2I1" with "D" most significant (R2, R25). -/
def idValue : Word := 0x44324931#32

/-- `PARAM`: NMAX_BYTES in bits 7:0, LW in bits 15:8, reserved zeros above (R26). -/
def paramValue : Word := 0#16 ++ BitVec.ofNat 8 lw ++ BitVec.ofNat 8 nmaxBytes

/-- `digest_reset_contents` (R49, D18): byte `i` of DIGEST after the reset number `draw`. "Each byte may hold
any value, and two resets may leave different values." A free value: log 3. -/
opaque digestResetContents (draw i : Nat) : Byte

/-- The number of the 4 KiB page at which the platform maps the window (R67, D27). OPEN. -/
opaque d2iBasePage : Nat

/-- `D2I_BASE`, aligned to 4 KiB (R67). -/
def d2iBase : Nat := 4096 * d2iBasePage

/-- `CONVERT_LATENCY` (R11, R275, D21). OPEN: no value of the model depends on it. -/
opaque convertLatency : Nat

/-- `ACCESS_LATENCY` (R275, D21). OPEN: no value of the model depends on it. -/
opaque accessLatency : Nat

/-- Whether the reset input is sampled by the clock (R260, D19). -/
inductive ResetKind where
  | synchronous
  | asynchronous
deriving DecidableEq, Repr, Inhabited

/-- The level of the reset input that means reset (R260, D19). -/
inductive ResetPolarity where
  | activeHigh
  | activeLow
deriving DecidableEq, Repr, Inhabited

/-- `RESET_KIND` (R260). OPEN: it changes no architectural value (log 14). -/
opaque resetKind : ResetKind

/-- `RESET_POLARITY` (R260). OPEN: it changes no architectural value (log 14). -/
opaque resetPolarity : ResetPolarity

end Sys2Proof.Config
end

