-- ==== Sys2Proof/Machine/State.lean ====
section
/-! DEFINITION. The architectural state of the D2I, "exactly this list" of 10_state.md R20, with the three
fields the model adds for its host (log 1, 2, 3), the reasons a step can stop, and the state after reset. -/

namespace Sys2Proof.Machine

/-- Everything the D2I holds between two accesses (R20, R45), and the host side of its bus. -/
structure State where
  /-- CFG_L, the target bit length `L` (R34) -/
  cfgL : BitVec 16
  /-- DLEN, the digest length in bytes, 0..64 (R35, R44) -/
  dlen : BitVec 7
  /-- DIGEST[0..63], byte 0 the most significant (R37) -/
  digest : Vector Byte 64
  /-- RESULT (R39) -/
  result : BitVec 512
  /-- SHAMT (R36) -/
  shamt : BitVec 10
  /-- STATUS.CFG_VALID (R29) -/
  cfgValid : Bool
  /-- STATUS.RESULT_VALID (R30) -/
  resultValid : Bool
  /-- STATUS.SHIFTED (R31) -/
  shifted : Bool
  /-- STATUS.ERR (R32) -/
  err : Bool
  /-- STATUS.ERRCODE (R33) -/
  errcode : BitVec 4
  /-- the model's own: the host's accesses and resets still to come, in the order of acceptance (R66; log 1) -/
  pending : List HostEvent
  /-- the model's own: the bus response to the latest access (log 2) -/
  response : BusResp
  /-- the model's own: which draw of the reset contents DIGEST last received (R49; log 3) -/
  resetCount : Nat
deriving DecidableEq, Repr

/-- The codes of STATUS.ERRCODE by name (R220). -/
inductive ErrCode where
  | none
  | illegalCmd
  | cfgZeroL
  | badDlen
  | noConfig
deriving DecidableEq, Repr

/-- Why the D2I could stop with a fault: nothing does. "Every access, including CONVERT, completes" (R276), a
command error is recorded in STATUS (R224) and a bus error is a response (R227); both are next states. No
constructor, so no step can raise one (log 16: safe, the spec has no such stop). -/
inductive Fault where
deriving DecidableEq, Repr

/-- Why the model could refuse a step. -/
inductive Refusal where
  /-- Raised by an arm of `exec` for an instruction without a meaning; no arm does. Safe: nothing runs. -/
  | notModelled (mnemonic : String)
deriving DecidableEq, Repr

/-- What a step or a meaning answers. -/
abbrev Outcome := Host.Outcome State Fault Refusal

/-- The state when reset is released (R48, R260): unconfigured, no result, no error, DIGEST unspecified (R49).
The three last fields are the model's own; their values here are DESIGN CHOICE (log 1, 2, 3). -/
def State.reset : State where
  cfgL := 0#16
  dlen := 0#7
  digest := Vector.ofFn fun i => Config.digestResetContents 0 i.val
  result := 0#512
  shamt := 0#10
  cfgValid := false
  resultValid := false
  shifted := false
  err := false
  errcode := 0#4
  pending := []
  response := .idle
  resetCount := 0

end Sys2Proof.Machine
end

