-- ==== Sys2Proof/Machine/Operands.lean ====
section
/-! DEFINITION. The operands of the commands: the two immediates (R93) and what CONVERT takes from state
(R14, R15, R140). Integers are exact `Nat`s and are narrowed once, at the end (R150). -/

namespace Sys2Proof.Machine

/-- `BE(d)`: the bytes as one big-endian unsigned integer, `d[0]` the most significant (R15). -/
def beValue : List Byte → Nat
  | [] => 0
  | b :: rest => b.toNat * 2 ^ (8 * rest.length) + beValue rest

/-- `L`, the target bit length CFG_L holds (R14). -/
def targetBits (s : State) : Nat :=
  s.cfgL.toNat

/-- `n = 8 * DLEN`, the bit length of the digest (R14, R35). -/
def digestBits (s : State) : Nat :=
  8 * s.dlen.toNat

/-- `DIGEST[0 .. DLEN-1]`, the only bytes a CONVERT reads (R37, R147). -/
def digestBytes (s : State) : List Byte :=
  s.digest.toList.take s.dlen.toNat

/-- `D = BE(DIGEST[0 .. DLEN-1])` (R61, R140). -/
def digestValue (s : State) : Nat :=
  beValue (digestBytes s)

/-- RESULT as a CONVERT writes it: the digest's value shifted right by exactly `n - L` bits when `n > L` (R143),
and the whole value when `n <= L` (R142). -/
def convertResult (s : State) : BitVec 512 :=
  if digestBits s > targetBits s then
    BitVec.ofNat 512 (digestValue s >>> (digestBits s - targetBits s))
  else BitVec.ofNat 512 (digestValue s)

end Sys2Proof.Machine
end

