-- ==== Sys2Proof/Machine/Flags.lean ====
section
/-! DEFINITION. The status flags: their place in the STATUS word (R28, R198), the error codes (R220), and the
flags and shift amount a CONVERT computes (R31, R36, R140). -/

namespace Sys2Proof.Machine

/-- The number of an error code (R33, R220). -/
def errCodeBits : ErrCode → BitVec 4
  | .none => 0#4
  | .illegalCmd => 1#4
  | .cfgZeroL => 2#4
  | .badDlen => 3#4
  | .noConfig => 4#4

/-- One flag as a one-bit field. -/
def flagBit (b : Bool) : BitVec 1 :=
  BitVec.ofBool b

/-- STATUS: `zext_32({ERRCODE[3:0], 0000b, ERR, SHIFTED, RESULT_VALID, CFG_VALID})` (R198). -/
def statusWord (s : State) : Word :=
  (s.errcode ++ 0#4 ++ flagBit s.err ++ flagBit s.shifted ++ flagBit s.resultValid
    ++ flagBit s.cfgValid).setWidth 32

/-- SHIFTED as a CONVERT writes it: 1 if `n > L`, else 0 (R31, R140). -/
def convertShifted (s : State) : Bool :=
  digestBits s > targetBits s

/-- SHAMT as a CONVERT writes it: `n - L` if `n > L`, else 0 (R36, R140). -/
def convertShamt (s : State) : BitVec 10 :=
  if digestBits s > targetBits s then BitVec.ofNat 10 (digestBits s - targetBits s) else 0#10

end Sys2Proof.Machine
end

