-- ==== Sys2Proof/Machine/Ops.lean ====
section
/-! DEFINITION. The shared operations: recording an error (R224) and acknowledging one (R233), the two data
buffers through their window words (R38, R40), the bus response, the host's events, and reset (R260). -/

namespace Sys2Proof.Machine

/-! ### Errors -/

/-- `raise Error(code)`: ERR <- 1, ERRCODE <- code. "Nothing else happens" (R224). This is all the exception
entry the D2I has (R232). -/
def raiseError (c : ErrCode) (s : State) : State :=
  { s with err := true, errcode := errCodeBits c }

/-- The acknowledgement of an error, the D2I's nearest thing to a return from one: ERR <- 0, ERRCODE <- NONE.
Only CLEAR does it (R172, R233). -/
def acknowledgeErrors (s : State) : State :=
  { s with err := false, errcode := errCodeBits .none }

/-! ### The data buffers -/

/-- The number of the byte DIGEST[4k+j] (R38). -/
def digestIndex (k : Fin 16) (j : Fin 4) : Fin 64 :=
  ⟨4 * k.val + j.val, by omega⟩

/-- DIGEST[i] (R37). -/
def readDigestByte (s : State) (i : Fin 64) : Byte :=
  s.digest[i]

/-- DIGEST_k, the earlier byte in the more significant bits (R38, R202). -/
def readDigestWord (s : State) (k : Fin 16) : Word :=
  readDigestByte s (digestIndex k 0) ++ readDigestByte s (digestIndex k 1)
    ++ readDigestByte s (digestIndex k 2) ++ readDigestByte s (digestIndex k 3)

/-- DIGEST_k <- v: four bytes, the most significant first; every other byte is kept (R193). -/
def writeDigestWord (k : Fin 16) (v : Word) (s : State) : State :=
  { s with
    digest := (((s.digest.set (digestIndex k 0) (v.extractLsb' 24 8)).set
      (digestIndex k 1) (v.extractLsb' 16 8)).set
      (digestIndex k 2) (v.extractLsb' 8 8)).set
      (digestIndex k 3) (v.extractLsb' 0 8) }

/-- `for i in 0..63: DIGEST[i] <- 0x00` (R172). -/
def zeroDigest (s : State) : State :=
  { s with digest := Vector.replicate 64 0x00#8 }

/-- RESULT_k = RESULT[511 - 32k : 480 - 32k] (R40, R203). -/
def readResultWord (s : State) (k : Fin 16) : Word :=
  s.result.extractLsb' (480 - 32 * k.val) 32

/-! ### The bus -/

/-- The bus response of an access is given. -/
def respond (r : BusResp) (s : State) : State :=
  { s with response := r }

/-- A read completes with OKAY and its data, and with no side effect (R65). -/
def answerRead (v : Word) (s : State) : Outcome :=
  .next (respond (.okayData v) s)

/-- A write completes with OKAY once what it does is done, error or not (R190, R194). -/
def completeWrite (o : Outcome) : Outcome :=
  match o with
  | .next s => .next (respond .okay s)
  | .fault r => .fault r
  | .refused r => .refused r

/-! ### The host's events -/

/-- The next event the host presents, and the state once it is accepted; `none` when it presents none
(R66; log 1). -/
def takeEvent (s : State) : Option (HostEvent × State) :=
  match s.pending with
  | [] => none
  | e :: rest => some (e, { s with pending := rest })

/-- `s`, with the access put before every event still to come. -/
def presentAccess (x : Access) (s : State) : State :=
  { s with pending := .access x :: s.pending }

/-- With no access and no reset, every piece of state is kept (R240; log 4). -/
def idle (s : State) : State := s

/-! ### Reset -/

/-- The 64 bytes drawn for DIGEST at the reset number `draw` (R49; log 3). -/
def drawDigest (draw : Nat) : Vector Byte 64 :=
  Vector.ofFn fun i => Config.digestResetContents draw i.val

/-- Reset asserted and released: every element holds its value of R48, and DIGEST a new draw (R49, R260, R261;
log 5). -/
def hardReset (s : State) : State :=
  { s with
    cfgL := 0#16
    dlen := 0#7
    digest := drawDigest (s.resetCount + 1)
    result := 0#512
    shamt := 0#10
    cfgValid := false
    resultValid := false
    shifted := false
    err := false
    errcode := 0#4
    response := .idle
    resetCount := s.resetCount + 1 }

end Sys2Proof.Machine
end

