-- ==== Sys2Proof/Machine/HostReads.lean ====
section
/-! DEFINITION. The host's reads (43_host_access.md R195 to R204). None has a side effect (R65). -/

namespace Sys2Proof.Machine

/-- RD_ID (R195). -/
def execRdId (s : State) : Outcome :=
  answerRead Config.idValue s

/-- RD_PARAM (R196). -/
def execRdParam (s : State) : Outcome :=
  answerRead Config.paramValue s

/-- RD_CMD: CMD has no storage and reads 0 (R197). -/
def execRdCmd (s : State) : Outcome :=
  answerRead 0#32 s

/-- RD_STATUS (R198). -/
def execRdStatus (s : State) : Outcome :=
  answerRead (statusWord s) s

/-- RD_CFG_L: `zext_32(CFG_L)` (R199). -/
def execRdCfgL (s : State) : Outcome :=
  answerRead (s.cfgL.setWidth 32) s

/-- RD_CFG_N: `zext_32(DLEN)` (R200). -/
def execRdCfgN (s : State) : Outcome :=
  answerRead (s.dlen.setWidth 32) s

/-- RD_SHAMT: `zext_32(SHAMT)` (R201). -/
def execRdShamt (s : State) : Outcome :=
  answerRead (s.shamt.setWidth 32) s

/-- RD_DIGEST (R202). -/
def execRdDigest (k : Fin 16) (s : State) : Outcome :=
  answerRead (readDigestWord s k) s

/-- RD_RESULT: the register as it stands, valid or stale (R203, R206). -/
def execRdResult (k : Fin 16) (s : State) : Outcome :=
  answerRead (readResultWord s k) s

/-- RD_RESERVED: a reserved offset reads 0 (R24, R204). -/
def execRdReserved (_a : Offset) (s : State) : Outcome :=
  answerRead 0#32 s

end Sys2Proof.Machine
end

