-- ==== Sys2Proof/Machine/Configuration.lean ====
section
/-! DEFINITION. The configuration commands SETL and SETN (40_configuration.md). -/

namespace Sys2Proof.Machine

/-- SETL: a nonzero `L` is configured (R121); `L = 0` is rejected, and the earlier configuration with it
(R122). -/
def execSetl (l : BitVec 16) (s : State) : Outcome :=
  if l = 0#16 then
    .next (raiseError .cfgZeroL { s with cfgL := 0#16, cfgValid := false, resultValid := false })
  else .next { s with cfgL := l, cfgValid := true, resultValid := false }

/-- SETN: a length of at most 64 bytes is configured (R126); a longer one raises BAD_DLEN and changes nothing
else (R127). -/
def execSetn (nb : BitVec 8) (s : State) : Outcome :=
  if nb.toNat ≤ Config.nmaxBytes then .next { s with dlen := nb.setWidth 7, resultValid := false }
  else .next (raiseError .badDlen s)

end Sys2Proof.Machine
end

