-- ==== Sys2Proof/Machine/Control.lean ====
section
/-! DEFINITION. The control commands NOP and CLEAR (42_control.md), and the catch-all ILLEGAL_CMD (R95, R221). -/

namespace Sys2Proof.Machine

/-- NOP: "no state is read or written" (R170). -/
def execNop (s : State) : Outcome :=
  .next s

/-- CLEAR: DIGEST, RESULT, SHAMT, RESULT_VALID, SHIFTED, ERR and ERRCODE become 0; CFG_L, CFG_VALID and DLEN are
kept (R172). -/
def execClear (s : State) : Outcome :=
  .next { acknowledgeErrors (zeroDigest s) with
    result := 0#512
    shamt := 0#10
    resultValid := false
    shifted := false }

/-- An illegal command word raises ILLEGAL_CMD "and nothing else", whichever word it is (R95, R221). -/
def execIllegalCmd (_w : Word) (s : State) : Outcome :=
  .next (raiseError .illegalCmd s)

end Sys2Proof.Machine
end

