-- ==== Sys2Proof/Machine/Convert.lean ====
section
/-! DEFINITION. The conversion command CONVERT (41_convert.md). -/

namespace Sys2Proof.Machine

/-- CONVERT: with a legal `L` configured, RESULT, SHAMT, SHIFTED and RESULT_VALID are written; otherwise
NO_CONFIG is raised and nothing else changes (R140, R225). -/
def execConvert (s : State) : Outcome :=
  if s.cfgValid then
    .next { s with
      result := convertResult s
      shamt := convertShamt s
      shifted := convertShifted s
      resultValid := true }
  else .next (raiseError .noConfig s)

end Sys2Proof.Machine
end

