-- ==== Sys2Proof/Machine/HostWrites.lean ====
section
/-! DEFINITION. The host's writes, and the refused access (43_host_access.md R190 to R194, R205). -/

namespace Sys2Proof.Machine

/-- A command is performed, as its own rule says (R190). -/
def performCommand (c : Command) (s : State) : Outcome :=
  match c with
  | .nop => execNop s
  | .setl l => execSetl l s
  | .setn nb => execSetn nb s
  | .convert => execConvert s
  | .clear => execClear s
  | .illegal w => execIllegalCmd w s

/-- WR_CMD: the word is decoded and the whole command performed; the write completes with OKAY "even when the
command raises an error" (R190). The word itself is stored nowhere (R191). -/
def execWrCmd (w : Word) (s : State) : Outcome :=
  completeWrite (performCommand (decodeCommand w) s)

/-- WR_DIGEST: four bytes of DIGEST are written and RESULT_VALID is cleared, whatever DLEN is (R193). -/
def execWrDigest (k : Fin 16) (v : Word) (s : State) : Outcome :=
  completeWrite (.next { writeDigestWord k v s with resultValid := false })

/-- WR_IGNORED: the write changes no state and completes with OKAY (R194). -/
def execWrIgnored (_a : Offset) (_v : Word) (s : State) : Outcome :=
  completeWrite (.next s)

/-- BUSERR: the access is refused on the bus; no state changes, STATUS included, and a read returns no data
(R205, R227). -/
def execBusErr (_op : BusOp) (_size : BusSize) (_a : Offset) (s : State) : Outcome :=
  .next (respond .busErr s)

end Sys2Proof.Machine
end

