-- ==== Sys2Proof/Machine/Dispatch.lean ====
section
/-! DEFINITION. `exec`: the one dispatch from an instruction to its meaning. -/

namespace Sys2Proof.Machine

def exec (i : Instr) (s : State) : Host.Outcome State Fault Refusal :=
  match i with
  -- command words
  | .nop => Sys2Proof.Machine.execNop s
  | .setl l => Sys2Proof.Machine.execSetl l s
  | .setn nb => Sys2Proof.Machine.execSetn nb s
  | .convert => Sys2Proof.Machine.execConvert s
  | .clear => Sys2Proof.Machine.execClear s
  | .illegalCmd w => Sys2Proof.Machine.execIllegalCmd w s
  -- host writes
  | .wrCmd w => Sys2Proof.Machine.execWrCmd w s
  | .wrDigest k v => Sys2Proof.Machine.execWrDigest k v s
  | .wrIgnored a v => Sys2Proof.Machine.execWrIgnored a v s
  -- host reads
  | .rdId => Sys2Proof.Machine.execRdId s
  | .rdParam => Sys2Proof.Machine.execRdParam s
  | .rdCmd => Sys2Proof.Machine.execRdCmd s
  | .rdStatus => Sys2Proof.Machine.execRdStatus s
  | .rdCfgL => Sys2Proof.Machine.execRdCfgL s
  | .rdCfgN => Sys2Proof.Machine.execRdCfgN s
  | .rdShamt => Sys2Proof.Machine.execRdShamt s
  | .rdDigest k => Sys2Proof.Machine.execRdDigest k s
  | .rdResult k => Sys2Proof.Machine.execRdResult k s
  | .rdReserved a => Sys2Proof.Machine.execRdReserved a s
  -- the refused access
  | .busErr op size a => Sys2Proof.Machine.execBusErr op size a s

end Sys2Proof.Machine
end

