-- ==== Sys2Proof/Machine/Step.lean ====
section
/-! DEFINITION. `step`: the D2I takes the next event its host presents and performs it whole (R20, R66). It
fetches nothing (R22): where its instructions come from is the list `pending` (log 1, 7). -/

namespace Sys2Proof.Machine

/-- One step: an access is decoded (R97) and performed, a reset is taken (R261), or nothing is presented and
nothing changes (R240). -/
def step (s : State) : Host.Outcome State Fault Refusal :=
  match takeEvent s with
  | none => .next (idle s)
  | some (.reset, t) => .next (hardReset t)
  | some (.access x, t) => exec (decodeAccess x) t

/-- `s`, with the table word presented as the host's very next access: an access form as that access, a command
word as a write of it to CMD (R27, R99; log 6, 7). -/
def State.withFetchWord (s : State) (nbits w : Nat) : State :=
  presentAccess (accessOfEncoded (encodedOfTableWord nbits w)) s

end Sys2Proof.Machine
end

