-- ==== Sys2Proof/Assembler.lean ====
section
/-! DEFINITION. The host syntax of 30_encoding.md R99 and R100: statements, pseudo-instructions, and their
expansion into the accesses the D2I sees. "Pure text" (R100): nothing here is called by the machine. -/

namespace Sys2Proof.Assembler

/-! ### Statements and their meaning -/

/-- A register name, or `[0xNNN]` for a raw offset (R99), aligned or not (log 15). -/
inductive RegName where
  | id
  | param
  | cmd
  | status
  | cfgL
  | cfgN
  | shamt
  | digest (k : Fin 16)
  | result (k : Fin 16)
  | raw (a : Offset)
deriving DecidableEq, Repr

/-- A statement of R99, or a pseudo-instruction of R100. -/
inductive Stmt where
  | nop
  | setl (l : Nat)
  | setn (nb : Nat)
  | convert
  | clear
  | wr (r : RegName) (v : Word)
  | rd (r : RegName)
  | rdExpect (r : RegName) (v : Word)
  | cfg (l nb : Nat)
  | lddig (bytes : List Byte)
  | rdres
deriving DecidableEq, Repr

/-- One access of a host program, with the word the program expects a read to give ("a check, not a write"). -/
structure HostOp where
  access : Access
  expect : Option Word
deriving DecidableEq, Repr

/-- Why a line is refused. -/
inductive AsmError where
  /-- a SETL operand above 65535 (R99) -/
  | setlOperand
  /-- a SETN operand above 255 (R99) -/
  | setnOperand
  /-- an LDDIG string of more than 64 bytes (R100) -/
  | digestLength
  /-- a line that is no statement -/
  | badLine
deriving DecidableEq, Repr

/-- The offset a register name stands for (R23). -/
def regOffset : RegName → Nat
  | .id => 0x000
  | .param => 0x004
  | .cmd => 0x008
  | .status => 0x00C
  | .cfgL => 0x010
  | .cfgN => 0x014
  | .shamt => 0x018
  | .digest k => 0x040 + 4 * k.val
  | .result k => 0x080 + 4 * k.val
  | .raw a => a.toNat

/-- One 32-bit write, aligned wherever `a` is: a raw offset that is not gives a refused access (log 15). -/
def wrOp (a : Nat) (v : Word) : HostOp :=
  { access := wordAccess (.write v) a, expect := none }

/-- One 32-bit read, aligned wherever `a` is (log 15). -/
def rdOp (a : Nat) (expect : Option Word) : HostOp :=
  { access := wordAccess .read a, expect := expect }

/-- `WR CMD, word`. -/
def cmdOp (w : Word) : HostOp := wrOp 0x008 w

/-- The words of a byte string, four bytes each and the earlier byte more significant. "A byte beyond `b(m-1)` in
the last word is written as 0x00" (R100). -/
def packWords : List Byte → List Word
  | [] => []
  | [a] => [a ++ 0#8 ++ 0#8 ++ 0#8]
  | [a, b] => [a ++ b ++ 0#8 ++ 0#8]
  | [a, b, c] => [a ++ b ++ c ++ 0#8]
  | a :: b :: c :: d :: rest => (a ++ b ++ c ++ d) :: packWords rest

/-- Writes of words to DIGEST_k, DIGEST_(k+1) and so on. -/
def digestWrites (k : Nat) : List Word → List HostOp
  | [] => []
  | v :: rest => wrOp (0x040 + 4 * k) v :: digestWrites (k + 1) rest

/-- `SETL <l>`; an operand that does not fit the field is refused (R99). -/
def setlOps (l : Nat) : Except AsmError (List HostOp) :=
  if l ≤ 65535 then .ok [cmdOp (0x01000000#32 ||| BitVec.ofNat 32 l)] else .error .setlOperand

/-- `SETN <nb>`; an operand that does not fit the field is refused (R99). -/
def setnOps (nb : Nat) : Except AsmError (List HostOp) :=
  if nb ≤ 255 then .ok [cmdOp (0x02000000#32 ||| BitVec.ofNat 32 nb)] else .error .setnOperand

/-- The accesses of a statement (R99, R100). -/
def assemble : Stmt → Except AsmError (List HostOp)
  | .nop => .ok [cmdOp 0x00000000#32]
  | .setl l => setlOps l
  | .setn nb => setnOps nb
  | .convert => .ok [cmdOp 0x03000000#32]
  | .clear => .ok [cmdOp 0x04000000#32]
  | .wr r v => .ok [wrOp (regOffset r) v]
  | .rd r => .ok [rdOp (regOffset r) none]
  | .rdExpect r v => .ok [rdOp (regOffset r) (some v)]
  | .cfg l nb =>
    match setlOps l, setnOps nb with
    | .ok a, .ok b => .ok (a ++ b)
    | .error e, _ => .error e
    | .ok _, .error e => .error e
  | .lddig bytes =>
    if bytes.length ≤ 64 then .ok (digestWrites 0 (packWords bytes)) else .error .digestLength
  | .rdres => .ok ((List.range 16).map fun k => rdOp (0x080 + 4 * k) none)

/-! ### Text

A line is characters. Blanks and commas separate words, `=` is a word of its own, and mnemonics and register
names are in capitals as R99 writes them (log 15). -/

/-- The line up to the `;` that starts a comment (R99). -/
def stripComment : List Char → List Char
  | [] => []
  | c :: rest => if c = ';' then [] else c :: stripComment rest

/-- A word that was read letter by letter is put before the words that follow it, if it has letters. -/
def consWord (word : List Char) (words : List (List Char)) : List (List Char) :=
  if word.isEmpty then words else word.reverse :: words

/-- The words of a line; `acc` holds the letters of the word being read, last letter first. -/
def splitWords (acc : List Char) : List Char → List (List Char)
  | [] => consWord acc []
  | c :: rest =>
    if c = ' ' ∨ c = '\t' ∨ c = ',' then consWord acc (splitWords [] rest)
    else if c = '=' then consWord acc (['='] :: splitWords [] rest)
    else splitWords (c :: acc) rest

/-- The value of a digit in a base of 10 or 16. -/
def digitValue (base : Nat) (c : Char) : Option Nat :=
  let n := c.toNat
  let v := if 48 ≤ n ∧ n ≤ 57 then n - 48
    else if 97 ≤ n ∧ n ≤ 102 then n - 87
    else if 65 ≤ n ∧ n ≤ 70 then n - 55
    else base
  if v < base then some v else none

/-- The number that digits spell, after those `acc` already counts. -/
def digitsFrom (base acc : Nat) : List Char → Option Nat
  | [] => some acc
  | c :: rest => (digitValue base c).bind fun v => digitsFrom base (acc * base + v) rest

/-- A number: hexadecimal with `0x`, else decimal (R16, R99). -/
def parseNat : List Char → Option Nat
  | [] => none
  | ['0', 'x'] => none
  | '0' :: 'x' :: rest => digitsFrom 16 0 rest
  | c :: rest => digitsFrom 10 0 (c :: rest)

/-- A word of at most 32 bits. -/
def parseWord (cs : List Char) : Option Word :=
  (parseNat cs).bind fun n => if n < 2 ^ 32 then some (BitVec.ofNat 32 n) else none

/-- A byte of a hexadecimal byte string, two digits (R16). -/
def parseByte : List Char → Option Byte
  | [a, b] => (digitsFrom 16 0 [a, b]).map (BitVec.ofNat 8)
  | _ => none

/-- The index of DIGEST0 .. DIGEST15 or RESULT0 .. RESULT15. -/
def parseIndex (cs : List Char) : Option (Fin 16) :=
  match cs with
  | [] => none
  | _ => (digitsFrom 10 0 cs).bind fun n => if h : n < 16 then some ⟨n, h⟩ else none

/-- A raw offset, the text after `[0x` (R99). DESIGN CHOICE (log 15): R99 does not say whether an assembler refuses
an offset that is not word aligned; here it is accepted, and stands for the 32-bit access at that offset, which the
D2I answers with BUSERR (R63, R205). The number of digits is free, and an offset above 0xFFF is refused. -/
def parseRaw (cs : List Char) : Option RegName :=
  match cs.reverse with
  | ']' :: digits =>
    if digits.isEmpty then none
    else (digitsFrom 16 0 digits.reverse).bind fun n =>
      if n < 4096 then some (.raw (BitVec.ofNat 12 n)) else none
  | _ => none

/-- A register name (R99). -/
def parseReg : List Char → Option RegName
  | ['I', 'D'] => some .id
  | ['P', 'A', 'R', 'A', 'M'] => some .param
  | ['C', 'M', 'D'] => some .cmd
  | ['S', 'T', 'A', 'T', 'U', 'S'] => some .status
  | ['C', 'F', 'G', '_', 'L'] => some .cfgL
  | ['C', 'F', 'G', '_', 'N'] => some .cfgN
  | ['S', 'H', 'A', 'M', 'T'] => some .shamt
  | 'D' :: 'I' :: 'G' :: 'E' :: 'S' :: 'T' :: k => (parseIndex k).map .digest
  | 'R' :: 'E' :: 'S' :: 'U' :: 'L' :: 'T' :: k => (parseIndex k).map .result
  | '[' :: '0' :: 'x' :: rest => parseRaw rest
  | _ => none

/-- All of a list of optional values, or nothing. -/
def allSome {α : Type} : List (Option α) → Option (List α)
  | [] => some []
  | none :: _ => none
  | some a :: rest => (allSome rest).map (a :: ·)

/-- A statement whose only word is its name. -/
def parseBare : List Char → Option Stmt
  | ['N', 'O', 'P'] => some .nop
  | ['C', 'O', 'N', 'V', 'E', 'R', 'T'] => some .convert
  | ['C', 'L', 'E', 'A', 'R'] => some .clear
  | ['R', 'D', 'R', 'E', 'S'] => some .rdres
  | _ => none

/-- The statement that a line's words spell. -/
def parseWords : List (List Char) → Option Stmt
  | ['S', 'E', 'T', 'L'] :: [l] => (parseNat l).map .setl
  | ['S', 'E', 'T', 'N'] :: [n] => (parseNat n).map .setn
  | ['W', 'R'] :: [r, v] => (parseReg r).bind fun r => (parseWord v).map (.wr r)
  | ['R', 'D'] :: [r] => (parseReg r).map .rd
  | ['R', 'D'] :: [r, ['='], v] => (parseReg r).bind fun r => (parseWord v).map (.rdExpect r)
  | ['C', 'F', 'G'] :: [l, n] => (parseNat l).bind fun l => (parseNat n).map (.cfg l)
  | ['L', 'D', 'D', 'I', 'G'] :: bytes => (allSome (bytes.map parseByte)).map .lddig
  | [w] => parseBare w
  | _ => none

/-- The accesses of one line of a host program; an empty or comment line has none. -/
def assembleLine (line : List Char) : Except AsmError (List HostOp) :=
  match splitWords [] (stripComment line) with
  | [] => .ok []
  | w :: ws =>
    match parseWords (w :: ws) with
    | some stmt => assemble stmt
    | none => .error .badLine

end Sys2Proof.Assembler
end

