-- ==== Sys2Proof/Machine/Timing.lean ====
section
/-! DEFINITION. Which latency an access takes (R270, R275). The machine's state holds no time: "A model has no
time" (R275; log 10). -/

namespace Sys2Proof.Machine

/-- The cycles from acceptance to completion: `CONVERT_LATENCY` for a CONVERT command and `ACCESS_LATENCY` for
every other access (R275). -/
def accessCycles (x : Access) : Nat :=
  if performedCommand (decodeAccess x) = some .convert then Config.convertLatency else Config.accessLatency

end Sys2Proof.Machine
end

