-- ==== Sys2Proof/Safety.lean ====
section
/-! DEFINITION. The terms the claims are made in: the invariants of 10_state.md R41 to R44, the run of a machine
over its pending events, the error an operation raises (R220), the DIGEST bytes it stores to (R37), and the
register map a host reads (R23). Nothing here is called by the machine. -/

namespace Sys2Proof.Machine

/-! ### Invariants -/

/-- What holds "at every point between steps" (R41 to R44). -/
structure StateInv (s : State) : Prop where
  /-- `CFG_VALID = 1` exactly when `CFG_L != 0` (R41) -/
  cfg_valid_iff : s.cfgValid = true ↔ s.cfgL ≠ 0#16
  /-- a valid result is configured, and is the conversion of the current inputs (R42) -/
  valid_result : s.resultValid = true →
    s.cfgValid = true ∧ s.result = convertResult s ∧ s.shamt = convertShamt s ∧ s.shifted = convertShifted s
  /-- `SHIFTED = 1` exactly when `SHAMT != 0` (R43) -/
  shifted_iff : s.shifted = true ↔ s.shamt ≠ 0#10
  /-- `DLEN <= 64` (R44) -/
  dlen_le : s.dlen.toNat ≤ 64

/-- ERR and ERRCODE agree, and the code is one of R220 (R32, R33; 90_conflicts.md C6: ERRCODE = 4 with ERR = 0
"cannot occur"). -/
structure ErrInv (s : State) : Prop where
  err_iff : s.err = true ↔ s.errcode ≠ 0#4
  errcode_le : s.errcode.toNat ≤ 4

/-! ### Runs -/

/-- `k` steps of the machine. -/
def runSteps : Nat → State → Outcome
  | 0, s => .next s
  | k + 1, s =>
    match step s with
    | .next t => runSteps k t
    | .fault r => .fault r
    | .refused r => .refused r

/-- The machine with these events, and no others, to come. -/
def State.withEvents (s : State) (es : List HostEvent) : State :=
  { s with pending := es }

/-- The operation an event asks for, if it is an access. -/
def operationOf : HostEvent → Option Instr
  | .access x => some (decodeAccess x)
  | .reset => none

/-- The command an event makes the machine perform, if any. -/
def commandOf (e : HostEvent) : Option Command :=
  (operationOf e).bind performedCommand

/-! ### What an operation does, said from outside -/

/-- The error a command raises in a state, by the causes of R220. -/
def commandError (c : Command) (s : State) : Option ErrCode :=
  match c with
  | .nop => none
  | .setl l => if l = 0#16 then some .cfgZeroL else none
  | .setn nb => if nb.toNat > 64 then some .badDlen else none
  | .convert => if s.cfgValid then none else some .noConfig
  | .clear => none
  | .illegal _ => some .illegalCmd

/-- The error an operation raises in a state: that of the command it performs. A bus error is none (R227). -/
def errorOf (i : Instr) (s : State) : Option ErrCode :=
  (performedCommand i).bind fun c => commandError c s

/-- The operation stores to byte `b` of DIGEST: WR_DIGEST to the four bytes of its word (R193), CLEAR to all
(R172), nothing else to any (R37). -/
def storesByte (i : Instr) (b : Fin 64) : Bool :=
  match i with
  | .wrDigest k _ => b.val / 4 == k.val
  | _ => performedCommand i == some .clear

/-- The word the register map of R23 shows at the offset `a`. -/
def windowRead (s : State) (a : Nat) : Word :=
  if a = 0x000 then 0x44324931#32
  else if a = 0x004 then 0x00001040#32
  else if a = 0x00C then statusWord s
  else if a = 0x010 then BitVec.ofNat 32 s.cfgL.toNat
  else if a = 0x014 then BitVec.ofNat 32 s.dlen.toNat
  else if a = 0x018 then BitVec.ofNat 32 s.shamt.toNat
  else if 0x040 ≤ a ∧ a ≤ 0x07C then
    BitVec.ofNat 32 (beValue ((s.digest.toList.drop (a - 0x040)).take 4))
  else if 0x080 ≤ a ∧ a ≤ 0x0BC then
    BitVec.ofNat 32 (s.result.toNat / 2 ^ (480 - 8 * (a - 0x080)))
  else 0#32

end Sys2Proof.Machine
end

