-- ==== Sys2Proof/Certificates/Slice0/Obligations.lean ====
section
/-! DEFINITION. The statements about the D2I, one `Obligations.<Name>` each. Every one names in its docstring the
rule of spec/ it formalises. -/

open Sys2Proof Sys2Proof.Machine

/-! ### Encoding -/

/-- A few words decode to what they stand for. The six command lines are written out from R92 and R94. The five
access lines have the `A` and `DIR` of R97, and rest beside them on the model's own table-word layout, DESIGN CHOICE
of log 6: a 16-bit table word whose bits 15:13 are 0 is a 32-bit access, and a write that has no data bits writes
0. -/
def Obligations.WrittenOutWordsDecode : Prop :=
  decodeTableWord 32 0x00000000 = some .nop ∧
  decodeTableWord 32 0x010000FF = some (.setl 255#16) ∧
  decodeTableWord 32 0x02000014 = some (.setn 20#8) ∧
  decodeTableWord 32 0x03000000 = some .convert ∧
  decodeTableWord 32 0x04000000 = some .clear ∧
  decodeTableWord 32 0x01010100 = some (.illegalCmd 0x01010100#32) ∧
  decodeTableWord 16 0x1008 = some (.wrCmd 0#32) ∧
  decodeTableWord 16 0x104C = some (.wrDigest 3 0#32) ∧
  decodeTableWord 16 0x000C = some .rdStatus ∧
  decodeTableWord 16 0x00BC = some (.rdResult 15) ∧
  decodeTableWord 16 0x0042 = some (.busErr .read .word 0x042#12)

/-- Decoding the table word of any well-formed operation gives it back, with every operand (R92, R97). -/
def Obligations.DecodeEncodeRoundTrip : Prop :=
  ∀ i : Instr, i.wellFormed = true →
    decodeTableWord (tableWordOfEncoded (encode i)).1 (tableWordOfEncoded (encode i)).2 = some i

/-- Encoding what a command word or an access decodes to gives it back, the access at its offset `addr[11:0]`: no
two words, and no two accesses of different size, direction, offset or data, are one operation (R68, R94, R97).
(What a write that is refused carries is part of the operation too.) -/
def Obligations.EncodeDecodeGivesBackTheEncoding : Prop :=
  (∀ w : Word, encode (decode (.command w)) = .command w) ∧
  (∀ x : Access, encode (decode (.access x)) = .access { x with addr := x.addr % 4096 })

/-- Whatever the bits, the decoder reads a well-formed operation (R95, R97: decoding is total). -/
def Obligations.DecodedIsWellFormed : Prop :=
  ∀ nbits w : Nat, ∃ i : Instr, decodeTableWord nbits w = some i ∧ i.wellFormed = true

/-- R94: a word selects a command exactly when `(w & mask) == match`, the operands are the low bits, every other
word is illegal, and "no two rows match the same word". -/
def Obligations.CommandsSelectedByMatchAndMask : Prop :=
  ∀ w : Word,
    (decodeCommand w = .nop ↔ w &&& 0xFFFFFFFF#32 = 0x00000000#32) ∧
    (∀ l : BitVec 16, decodeCommand w = .setl l ↔
      w &&& 0xFFFF0000#32 = 0x01000000#32 ∧ l.toNat = w.toNat % 2 ^ 16) ∧
    (∀ nb : BitVec 8, decodeCommand w = .setn nb ↔
      w &&& 0xFFFFFF00#32 = 0x02000000#32 ∧ nb.toNat = w.toNat % 2 ^ 8) ∧
    (decodeCommand w = .convert ↔ w &&& 0xFFFFFFFF#32 = 0x03000000#32) ∧
    (decodeCommand w = .clear ↔ w &&& 0xFFFFFFFF#32 = 0x04000000#32) ∧
    (decodeCommand w = .illegal w ↔ ∀ r ∈ commandRows, r.selects w = false) ∧
    (commandRows.countP (·.selects w) ≤ 1)

/-- R95: a word is illegal when its OPC is 0x05..0xFF, or a reserved OPERAND bit is 1. Such a write raises
ILLEGAL_CMD and changes no state other than ERR and ERRCODE (its response is the OKAY of R190). -/
def Obligations.IllegalWordsRaiseIllegalCmd : Prop :=
  ∀ (w : Word) (s : State),
    ((5 ≤ w.toNat / 2 ^ 24 ∨
      (w.toNat / 2 ^ 24 = 0 ∧ w.toNat % 2 ^ 24 ≠ 0) ∨
      (w.toNat / 2 ^ 24 = 1 ∧ w.toNat / 2 ^ 16 % 2 ^ 8 ≠ 0) ∨
      (w.toNat / 2 ^ 24 = 2 ∧ w.toNat / 2 ^ 8 % 2 ^ 16 ≠ 0) ∨
      (w.toNat / 2 ^ 24 = 3 ∧ w.toNat % 2 ^ 24 ≠ 0) ∨
      (w.toNat / 2 ^ 24 = 4 ∧ w.toNat % 2 ^ 24 ≠ 0)) ↔ decodeCommand w = .illegal w) ∧
    exec (.illegalCmd w) s = .next { s with err := true, errcode := 1#4 } ∧
    (decodeCommand w = .illegal w →
      exec (.wrCmd w) s = .next { s with err := true, errcode := 1#4, response := .okay })

/-- R97: the form of an access, by the first line that matches; and the 13-bit pattern `{DIR, A[11:0]}` of
opcode_table.json, with DIR = 1 for a write, is the aligned word access at A, with some data (the pattern has none,
and which data the model gives it is its choice, log 6: `TableWordLayout`). -/
def Obligations.AccessDecodedByDescriptor : Prop :=
  (∀ a : Nat, a < 4096 → a % 4 = 0 →
    decodeTableWord 16 a = some (decodeAccess { op := .read, size := .word, addr := a }) ∧
    ∃ v : Word, decodeTableWord 16 (0x1000 + a) =
      some (decodeAccess { op := .write v, size := .word, addr := a })) ∧
  ∀ x : Access,
    (x.size ≠ .word ∨ x.addr % 4 ≠ 0 →
      decodeAccess x = .busErr x.op x.size (BitVec.ofNat 12 x.addr)) ∧
    (x.size = .word → x.addr % 4 = 0 → ∀ v : Word, x.op = .write v →
      (x.addr % 4096 = 0x008 → decodeAccess x = .wrCmd v) ∧
      (∀ k : Fin 16, x.addr % 4096 = 0x040 + 4 * k.val → decodeAccess x = .wrDigest k v) ∧
      (x.addr % 4096 ≠ 0x008 → ¬ (0x040 ≤ x.addr % 4096 ∧ x.addr % 4096 ≤ 0x07C) →
        decodeAccess x = .wrIgnored (BitVec.ofNat 12 x.addr) v)) ∧
    (x.size = .word → x.addr % 4 = 0 → x.op = .read →
      (x.addr % 4096 = 0x000 → decodeAccess x = .rdId) ∧
      (x.addr % 4096 = 0x004 → decodeAccess x = .rdParam) ∧
      (x.addr % 4096 = 0x008 → decodeAccess x = .rdCmd) ∧
      (x.addr % 4096 = 0x00C → decodeAccess x = .rdStatus) ∧
      (x.addr % 4096 = 0x010 → decodeAccess x = .rdCfgL) ∧
      (x.addr % 4096 = 0x014 → decodeAccess x = .rdCfgN) ∧
      (x.addr % 4096 = 0x018 → decodeAccess x = .rdShamt) ∧
      (∀ k : Fin 16, x.addr % 4096 = 0x040 + 4 * k.val → decodeAccess x = .rdDigest k) ∧
      (∀ k : Fin 16, x.addr % 4096 = 0x080 + 4 * k.val → decodeAccess x = .rdResult k) ∧
      (0x018 < x.addr % 4096 → ¬ (0x040 ≤ x.addr % 4096 ∧ x.addr % 4096 ≤ 0x0BC) →
        decodeAccess x = .rdReserved (BitVec.ofNat 12 x.addr)))

/-- R67, R68: the D2I decodes `addr[11:0]` only, so an access at `D2I_BASE + A` is the access at offset `A`,
wherever the platform put the window. -/
def Obligations.WindowBaseIsInvisible : Prop :=
  ∀ (op : BusOp) (size : BusSize) (a : Nat),
    decodeAccess { op := op, size := size, addr := Config.d2iBase + a } =
      decodeAccess { op := op, size := size, addr := a }

/-! ### Steps, reset -/

/-- The next access presented is the one performed, on the state that has accepted it (R20, R66). -/
def Obligations.StepRunsPresentedAccess : Prop :=
  ∀ (s : State) (x : Access) (rest : List HostEvent), s.pending = .access x :: rest →
    (decodeAccess x).wellFormed = true ∧ step s = exec (decodeAccess x) { s with pending := rest }

/-- A table word placed by `withFetchWord` is run by the very next step: an access form as decoded, a command
word as decoded and then answered OKAY, since it reaches the D2I as a write to CMD (R27, R90, R190). -/
def Obligations.StepRunsPlacedTableWord : Prop :=
  ∀ (s : State) (nbits w : Nat) (i : Instr), decodeTableWord nbits w = some i →
    step (s.withFetchWord nbits w) = if nbits = 32 then completeWrite (exec i s) else exec i s

/-- R276: every access completes. Every event presented is taken by one step that answers a next state, and
every operation answers one in every state. -/
def Obligations.EveryAccessCompletes : Prop :=
  (∀ (i : Instr) (s : State), ∃ t, exec i s = .next t ∧ t.pending = s.pending) ∧
  (∀ (s : State) (e : HostEvent) (rest : List HostEvent), s.pending = e :: rest →
    ∃ t, step s = .next t ∧ t.pending = rest)

/-- R48: the reset state of every piece of state but DIGEST, which is unspecified, so nothing is said of it. "A
CONVERT raises NO_CONFIG until a legal SETL": after every run from reset whose events hold none. -/
def Obligations.ResetStateValues : Prop :=
  State.reset.cfgL = 0#16 ∧ State.reset.cfgValid = false ∧ State.reset.dlen = 0#7 ∧
  State.reset.result = 0#512 ∧ State.reset.shamt = 0#10 ∧ State.reset.resultValid = false ∧
  State.reset.shifted = false ∧ State.reset.err = false ∧ State.reset.errcode = 0#4 ∧
  ∀ (es : List HostEvent) (k : Nat) (t : State),
    (∀ e ∈ es, ∀ l : BitVec 16, l ≠ 0#16 → commandOf e ≠ some (.setl l)) →
    runSteps k (State.reset.withEvents es) = .next t →
      exec .convert t = .next { t with err := true, errcode := 4#4 }

/-- R260, R261: a reset presented between two accesses gives every element its value of R48, from any state, so
whatever part of a command had taken effect. The last three lines are the model's own choices: DIGEST is drawn anew
from the bodiless constant (R49; log 3), the events still to come stay (log 1, 5), and no response stands (log 2). -/
def Obligations.ResetEventGivesResetValues : Prop :=
  ∀ (s : State) (rest : List HostEvent), s.pending = .reset :: rest →
    ∃ t, step s = .next t ∧
      t.cfgL = 0#16 ∧ t.cfgValid = false ∧ t.dlen = 0#7 ∧ t.result = 0#512 ∧ t.shamt = 0#10 ∧
      t.resultValid = false ∧ t.shifted = false ∧ t.err = false ∧ t.errcode = 0#4 ∧
      (∀ i : Fin 64, readDigestByte t i = Config.digestResetContents t.resetCount i.val) ∧
      t.resetCount = s.resetCount + 1 ∧ t.pending = rest ∧ t.response = .idle

/-! ### Configuration commands -/

/-- R121: SETL with `L != 0` configures `L` and clears RESULT_VALID; everything else is unchanged, RESULT, ERR
and ERRCODE included. -/
def Obligations.SetlConfiguresLegalLength : Prop :=
  ∀ (l : BitVec 16) (s : State), l ≠ 0#16 →
    exec (.setl l) s = .next { s with cfgL := l, cfgValid := true, resultValid := false }

/-- R122, R222: SETL 0 discards the configuration and raises CFG_ZERO_L; and no conversion runs until a legal
SETL: along every run whose events hold none, every CONVERT raises NO_CONFIG, and RESULT is never anything but
what it was, or 0. -/
def Obligations.NoConversionAfterZeroLength : Prop :=
  (∀ s : State, exec (.setl 0#16) s = .next { s with
    cfgL := 0#16, cfgValid := false, resultValid := false, err := true, errcode := 2#4 }) ∧
  ∀ (k : Nat) (s t : State), s.cfgValid = false →
    (∀ e ∈ s.pending, ∀ l : BitVec 16, l ≠ 0#16 → commandOf e ≠ some (.setl l)) →
    runSteps k s = .next t →
      t.cfgValid = false ∧ (t.result = s.result ∨ t.result = 0#512) ∧
      exec .convert t = .next { t with err := true, errcode := 4#4 }

/-- R126: SETN with `NB <= 64` writes DLEN and clears RESULT_VALID; everything else is unchanged. -/
def Obligations.SetnConfiguresLegalLength : Prop :=
  ∀ (nb : BitVec 8) (s : State), nb.toNat ≤ 64 →
    ∃ d : BitVec 7, d.toNat = nb.toNat ∧
      exec (.setn nb) s = .next { s with dlen := d, resultValid := false }

/-- R127: SETN with `NB > 64` raises BAD_DLEN; every field is unchanged but ERR and ERRCODE. -/
def Obligations.SetnRejectsLongDigest : Prop :=
  ∀ (nb : BitVec 8) (s : State), 64 < nb.toNat →
    exec (.setn nb) s = .next { s with err := true, errcode := 3#4 }

/-! ### CONVERT -/

/-- R142: with `n <= L`, RESULT is the whole big-endian value of the digest, exactly, and nothing is shifted;
everything R140 does not list is unchanged. -/
def Obligations.ConvertPassesShortDigestThrough : Prop :=
  ∀ s : State, s.cfgValid = true → s.dlen.toNat ≤ 64 → 8 * s.dlen.toNat ≤ s.cfgL.toNat →
    ∃ r : BitVec 512, r.toNat = beValue (s.digest.toList.take s.dlen.toNat) ∧
      exec .convert s = .next { s with
        result := r, shamt := 0#10, shifted := false, resultValid := true }

/-- R143: with `n > L`, RESULT is the digest's value shifted right by exactly `n - L` bits, which SHAMT records;
everything R140 does not list is unchanged. -/
def Obligations.ConvertShiftsLongDigest : Prop :=
  ∀ s : State, s.cfgValid = true → s.dlen.toNat ≤ 64 → s.cfgL.toNat < 8 * s.dlen.toNat →
    ∃ (r : BitVec 512) (k : BitVec 10),
      r.toNat = beValue (s.digest.toList.take s.dlen.toNat) / 2 ^ (8 * s.dlen.toNat - s.cfgL.toNat) ∧
      k.toNat = 8 * s.dlen.toNat - s.cfgL.toNat ∧
      exec .convert s = .next { s with result := r, shamt := k, shifted := true, resultValid := true }

/-- R144: the bit-level form of the truncation. RESULT[j], for `j < L`, is bit `b mod 8` of
`DIGEST[DLEN - 1 - (b div 8)]`, with `b = n - L + j`; the bits from L up are 0. -/
def Obligations.TruncationBitByBit : Prop :=
  ∀ s : State, s.cfgValid = true → s.dlen.toNat ≤ 64 → s.cfgL.toNat < 8 * s.dlen.toNat →
    ∃ t, exec .convert s = .next t ∧
      (∀ j b : Nat, j < s.cfgL.toNat → b = 8 * s.dlen.toNat - s.cfgL.toNat + j →
        ∀ i : Fin 64, i.val = s.dlen.toNat - 1 - b / 8 →
          t.result.getLsbD j = (readDigestByte s i).getLsbD (b % 8)) ∧
      (∀ j : Nat, s.cfgL.toNat ≤ j → t.result.getLsbD j = false)

/-- R141: after every successful CONVERT, `RESULT < 2^L` and `RESULT < 2^n`, and every bit at `min(n, L)` or above
is 0. -/
def Obligations.ConvertResultIsBounded : Prop :=
  ∀ s : State, s.cfgValid = true → s.dlen.toNat ≤ 64 →
    ∃ t, exec .convert s = .next t ∧ t.result.toNat < 2 ^ s.cfgL.toNat ∧
      t.result.toNat < 2 ^ (8 * s.dlen.toNat) ∧
      ∀ j : Nat, min (8 * s.dlen.toNat) s.cfgL.toNat ≤ j → t.result.getLsbD j = false

/-- R70, R147: what a successful CONVERT writes is a function of `DIGEST[0..DLEN-1]`, DLEN and CFG_L only. -/
def Obligations.ConvertReadsOnlyItsInputs : Prop :=
  ∀ s s' : State, s.cfgValid = true → s'.cfgValid = true → s.cfgL = s'.cfgL → s.dlen = s'.dlen →
    (∀ i : Fin 64, i.val < s.dlen.toNat → readDigestByte s i = readDigestByte s' i) →
    ∃ t t', exec .convert s = .next t ∧ exec .convert s' = .next t' ∧
      t.result = t'.result ∧ t.shamt = t'.shamt ∧ t.shifted = t'.shifted ∧ t.resultValid = t'.resultValid

/-- R146 and the first and last items of R149: the empty digest gives 0 with nothing shifted; `L = 1` gives
SHAMT = `n - 1` and RESULT = bit 7 of DIGEST[0]; an all-zero digest gives RESULT = 0 and still reports the branch
taken. -/
def Obligations.ExtremeShifts : Prop :=
  (∀ s : State, s.cfgValid = true → s.dlen = 0#7 →
    exec .convert s = .next { s with
      result := 0#512, shamt := 0#10, shifted := false, resultValid := true }) ∧
  (∀ s : State, s.cfgValid = true → s.cfgL = 1#16 → 1 ≤ s.dlen.toNat → s.dlen.toNat ≤ 64 →
    ∃ t, exec .convert s = .next t ∧ t.shamt.toNat = 8 * s.dlen.toNat - 1 ∧
      t.result.toNat = (readDigestByte s 0).toNat / 128) ∧
  (∀ s : State, s.cfgValid = true → (∀ i : Fin 64, i.val < s.dlen.toNat → readDigestByte s i = 0#8) →
    ∃ t, exec .convert s = .next t ∧ t.result = 0#512 ∧
      (t.shifted = true ↔ s.cfgL.toNat < 8 * s.dlen.toNat))

/-- R153: CONVERT does not read SHIFTED, SHAMT, RESULT, ERR or ERRCODE: configured or not, it writes the same
whatever they hold, and keeps those it does not write; two in a row are one; and one while RESULT_VALID = 1
recomputes the same values. -/
def Obligations.ConvertTwiceIsOnce : Prop :=
  (∀ (s : State) (b e : Bool) (k : BitVec 10) (r : BitVec 512) (c : BitVec 4), s.cfgValid = true →
    ∃ t, exec .convert s = .next t ∧
      exec .convert { s with shifted := b, shamt := k, result := r, err := e, errcode := c } =
        .next { t with err := e, errcode := c }) ∧
  (∀ (s : State) (b e : Bool) (k : BitVec 10) (r : BitVec 512) (c : BitVec 4), s.cfgValid = false →
    ∃ t, exec .convert s = .next t ∧
      exec .convert { s with shifted := b, shamt := k, result := r, err := e, errcode := c } =
        .next { t with shifted := b, shamt := k, result := r }) ∧
  (∀ s t : State, exec .convert s = .next t → exec .convert t = .next t) ∧
  (∀ s : State, StateInv s → s.resultValid = true → exec .convert s = .next s)

/-- R225: a CONVERT while `CFG_VALID = 0` raises NO_CONFIG and nothing else; RESULT_VALID is already 0 in that
case (R42). -/
def Obligations.UnconfiguredConvertRaisesNoConfig : Prop :=
  ∀ s : State, s.cfgValid = false →
    exec .convert s = .next { s with err := true, errcode := 4#4 } ∧ (StateInv s → s.resultValid = false)

/-! ### NOP and CLEAR -/

/-- R170: NOP leaves the state unchanged; a word with `OPC = 0x00` and a nonzero operand is not a NOP: it raises
ILLEGAL_CMD. -/
def Obligations.NopChangesNothing : Prop :=
  (∀ s : State, exec .nop s = .next s) ∧
  (∀ w : Word, w.toNat / 2 ^ 24 = 0 →
    decode (.command w) = if w.toNat % 2 ^ 24 = 0 then .nop else .illegalCmd w) ∧
  (∀ (w : Word) (s : State), w.toNat / 2 ^ 24 = 0 → w.toNat % 2 ^ 24 ≠ 0 →
    exec (.wrCmd w) s = .next { s with err := true, errcode := 1#4, response := .okay })

/-- R172: CLEAR zeroes DIGEST, RESULT, SHAMT, RESULT_VALID, SHIFTED, ERR and ERRCODE; CFG_L, CFG_VALID and DLEN
survive, and after a rejected SETL 0 the next CONVERT still raises NO_CONFIG. No other command clears ERR or
ERRCODE. -/
def Obligations.ClearZeroesDataAndStatus : Prop :=
  (∀ (c : Command) (s t : State), exec (instrOfCommand c) s = .next t →
    (s.err = true ∧ t.err = false) ∨ (s.errcode ≠ 0#4 ∧ t.errcode = 0#4) → c = .clear) ∧
  ∀ s : State, ∃ t, exec .clear s = .next t ∧
    (∀ i : Fin 64, readDigestByte t i = 0#8) ∧
    t = { s with
      digest := t.digest, result := 0#512, shamt := 0#10, resultValid := false, shifted := false,
      err := false, errcode := 0#4 } ∧
    (s.cfgValid = false → exec .convert t = .next { t with err := true, errcode := 4#4 })

/-! ### Host accesses -/

/-- R190: a write to CMD performs, whole, the command its word decodes to, and always completes with OKAY, even
when the command raises an error. -/
def Obligations.CmdWritePerformsCommand : Prop :=
  ∀ (w : Word) (s : State), ∃ t, exec (decode (.command w)) s = .next t ∧
    exec (.wrCmd w) s = .next { t with response := .okay }

/-- R193: a write to DIGEST_k stores its four bytes, most significant first, clears RESULT_VALID and changes
nothing else, every other byte of DIGEST included; the word then reads back. -/
def Obligations.DigestWriteStoresFourBytes : Prop :=
  ∀ (k : Fin 16) (v : Word) (s : State), ∃ t, exec (.wrDigest k v) s = .next t ∧
    (∀ i : Fin 64,
      (i.val = 4 * k.val → (readDigestByte t i).toNat = v.toNat / 2 ^ 24) ∧
      (i.val = 4 * k.val + 1 → (readDigestByte t i).toNat = v.toNat / 2 ^ 16 % 2 ^ 8) ∧
      (i.val = 4 * k.val + 2 → (readDigestByte t i).toNat = v.toNat / 2 ^ 8 % 2 ^ 8) ∧
      (i.val = 4 * k.val + 3 → (readDigestByte t i).toNat = v.toNat % 2 ^ 8) ∧
      (i.val < 4 * k.val ∨ 4 * k.val + 3 < i.val → readDigestByte t i = readDigestByte s i)) ∧
    t = { s with digest := t.digest, resultValid := false, response := .okay } ∧
    exec (.rdDigest k) t = .next { t with response := .okayData v }

/-- R194: an aligned write anywhere but to CMD and DIGEST changes no state and completes with OKAY. -/
def Obligations.OtherWritesAreIgnored : Prop :=
  (∀ (a : Offset) (v : Word) (s : State), exec (.wrIgnored a v) s = .next { s with response := .okay }) ∧
  (∀ (a : Nat) (v : Word) (s : State) (rest : List HostEvent), a < 4096 → a % 4 = 0 → a ≠ 0x008 →
    ¬ (0x040 ≤ a ∧ a ≤ 0x07C) →
    s.pending = .access { op := .write v, size := .word, addr := a } :: rest →
    step s = .next { s with pending := rest, response := .okay })

/-- R195, R196, R197, R204: the reads that return a constant, with no side effect. -/
def Obligations.ConstantReads : Prop :=
  ∀ s : State,
    exec .rdId s = .next { s with response := .okayData 0x44324931#32 } ∧
    exec .rdParam s = .next { s with response := .okayData 0x00001040#32 } ∧
    exec .rdCmd s = .next { s with response := .okayData 0x00000000#32 } ∧
    ∀ a : Offset, exec (.rdReserved a) s = .next { s with response := .okayData 0x00000000#32 }

/-- R198 with the layout of R28: CFG_VALID, RESULT_VALID, SHIFTED and ERR in bits 0 to 3, ERRCODE in bits 11:8,
and reserved bits 0. -/
def Obligations.StatusReadLayout : Prop :=
  ∀ s : State, ∃ v : Word, exec .rdStatus s = .next { s with response := .okayData v } ∧
    v.getLsbD 0 = s.cfgValid ∧ v.getLsbD 1 = s.resultValid ∧ v.getLsbD 2 = s.shifted ∧
    v.getLsbD 3 = s.err ∧ v.extractLsb' 4 4 = 0#4 ∧ v.extractLsb' 8 4 = s.errcode ∧
    v.extractLsb' 12 20 = 0#20

/-- R199, R200, R201: CFG_L, DLEN and SHAMT read zero-extended. -/
def Obligations.ConfigurationReadsZeroExtend : Prop :=
  ∀ s : State, ∃ a b c : Word,
    exec .rdCfgL s = .next { s with response := .okayData a } ∧ a.toNat = s.cfgL.toNat ∧
    exec .rdCfgN s = .next { s with response := .okayData b } ∧ b.toNat = s.dlen.toNat ∧
    exec .rdShamt s = .next { s with response := .okayData c } ∧ c.toNat = s.shamt.toNat

/-- R38, R202: DIGEST_k reads `{DIGEST[4k], .., DIGEST[4k+3]}`, and the words DIGEST_0 .. DIGEST_15 are one
512-bit number equal to `BE(DIGEST[0..63])`. -/
def Obligations.DigestWindowIsBigEndian : Prop :=
  ∀ s : State, ∃ v : Fin 16 → Word,
    (∀ k : Fin 16, exec (.rdDigest k) s = .next { s with response := .okayData (v k) }) ∧
    (∀ (k : Fin 16) (i : Fin 64) (j : Nat), j < 4 → i.val = 4 * k.val + j →
      (v k).toNat / 2 ^ (24 - 8 * j) % 2 ^ 8 = (readDigestByte s i).toNat) ∧
    (∑ k : Fin 16, (v k).toNat * 2 ^ (32 * (15 - k.val))) = beValue s.digest.toList

/-- R40, R203, R206: RESULT_k reads `RESULT[511 - 32k : 480 - 32k]`, whatever RESULT_VALID is, and the words
RESULT_0 .. RESULT_15 are RESULT, most significant word first. -/
def Obligations.ResultWindowIsBigEndian : Prop :=
  ∀ s : State, ∃ v : Fin 16 → Word,
    (∀ k : Fin 16, exec (.rdResult k) s = .next { s with response := .okayData (v k) }) ∧
    (∀ (k : Fin 16) (j : Nat), j < 32 → (v k).getLsbD j = s.result.getLsbD (480 - 32 * k.val + j)) ∧
    (∑ k : Fin 16, (v k).toNat * 2 ^ (32 * (15 - k.val))) = s.result.toNat

/-- R23, R24: an aligned read of any offset gives the word the register map shows there, and changes nothing. -/
def Obligations.ReadsFollowRegisterMap : Prop :=
  ∀ (s : State) (a : Nat) (rest : List HostEvent), a < 4096 → a % 4 = 0 →
    s.pending = .access { op := .read, size := .word, addr := a } :: rest →
    step s = .next { s with pending := rest, response := .okayData (windowRead s a) }

/-- R205, R227: an access that is not 32 bits wide or not word aligned gets BUSERR; no state changes, STATUS
included, and a read returns no data. -/
def Obligations.RefusedAccessChangesNothing : Prop :=
  (∀ (op : BusOp) (size : BusSize) (a : Offset) (s : State),
    exec (.busErr op size a) s = .next { s with response := .busErr }) ∧
  (∀ (s : State) (x : Access) (rest : List HostEvent), s.pending = .access x :: rest →
    x.size ≠ .word ∨ x.addr % 4 ≠ 0 → step s = .next { s with pending := rest, response := .busErr })

/-- R229: the checks run in the order bus, decode, the command's own, and the first that fails decides; one
access raises at most one error. -/
def Obligations.ChecksRunInOrder : Prop :=
  ∀ (s : State) (x : Access) (rest : List HostEvent), s.pending = .access x :: rest →
    (x.size ≠ .word ∨ x.addr % 4 ≠ 0 → step s = .next { s with pending := rest, response := .busErr }) ∧
    (x.size = .word → x.addr % 4 = 0 → ∀ w : Word, x.op = .write w → x.addr % 4096 = 0x008 →
      (decodeCommand w = .illegal w → step s = .next { s with
        pending := rest, err := true, errcode := 1#4, response := .okay }) ∧
      (decodeCommand w = .setl 0#16 → step s = .next { s with
        pending := rest, cfgL := 0#16, cfgValid := false, resultValid := false,
        err := true, errcode := 2#4, response := .okay }) ∧
      (∀ nb : BitVec 8, decodeCommand w = .setn nb → 64 < nb.toNat → step s = .next { s with
        pending := rest, err := true, errcode := 3#4, response := .okay }) ∧
      (decodeCommand w = .convert → s.cfgValid = false → step s = .next { s with
        pending := rest, err := true, errcode := 4#4, response := .okay })) ∧
    (errorOf (decodeAccess x) s = none → s.err = false → ∃ t, step s = .next t ∧ t.err = false)

/-! ### Who writes what: rules over every operation -/

/-- R29, R34: CFG_L and CFG_VALID are written by SETL and reset, together, and by nothing else. -/
def Obligations.ConfigurationWriters : Prop :=
  ∀ (s : State) (e : HostEvent) (rest : List HostEvent), s.pending = e :: rest →
    ∃ t, step s = .next t ∧
      (∀ l : BitVec 16, commandOf e = some (.setl l) →
        t.cfgL = l ∧ (t.cfgValid = true ↔ l ≠ 0#16)) ∧
      (e = .reset → t.cfgL = 0#16 ∧ t.cfgValid = false) ∧
      ((∀ l : BitVec 16, commandOf e ≠ some (.setl l)) → e ≠ .reset →
        t.cfgL = s.cfgL ∧ t.cfgValid = s.cfgValid)

/-- R35: only a successful SETN and reset change DLEN. -/
def Obligations.DlenWriters : Prop :=
  ∀ (s : State) (e : HostEvent) (rest : List HostEvent), s.pending = e :: rest →
    ∃ t, step s = .next t ∧
      (∀ nb : BitVec 8, commandOf e = some (.setn nb) → nb.toNat ≤ 64 → t.dlen.toNat = nb.toNat) ∧
      (e = .reset → t.dlen = 0#7) ∧
      ((∀ nb : BitVec 8, commandOf e = some (.setn nb) → 64 < nb.toNat) → e ≠ .reset → t.dlen = s.dlen)

/-- R30: RESULT_VALID is set by a successful CONVERT, and cleared by every SETL, a successful SETN, any write to a
DIGEST word, CLEAR and reset; everything else leaves it unchanged. -/
def Obligations.ResultValidWriters : Prop :=
  ∀ (s : State) (e : HostEvent) (rest : List HostEvent), s.pending = e :: rest →
    ∃ t, step s = .next t ∧
      (commandOf e = some .convert → s.cfgValid = true → t.resultValid = true) ∧
      ((∃ l, commandOf e = some (.setl l)) ∨
        (∃ nb : BitVec 8, commandOf e = some (.setn nb) ∧ nb.toNat ≤ 64) ∨
        (∃ k v, operationOf e = some (.wrDigest k v)) ∨
        commandOf e = some .clear ∨ e = .reset → t.resultValid = false) ∧
      ((commandOf e = some .convert → s.cfgValid = false) →
        (∀ l, commandOf e ≠ some (.setl l)) →
        (∀ nb : BitVec 8, commandOf e = some (.setn nb) → 64 < nb.toNat) →
        (∀ k v, operationOf e ≠ some (.wrDigest k v)) →
        commandOf e ≠ some .clear → e ≠ .reset → t.resultValid = s.resultValid)

/-- R31, R36, R39: RESULT, SHAMT and SHIFTED are written by a successful CONVERT, to the values of R140, and
zeroed by CLEAR and reset; nothing else changes any of them. -/
def Obligations.ConversionResultWriters : Prop :=
  ∀ (s : State) (e : HostEvent) (rest : List HostEvent), s.pending = e :: rest → s.dlen.toNat ≤ 64 →
    ∃ t, step s = .next t ∧
      (commandOf e = some .convert → s.cfgValid = true →
        (t.shifted = true ↔ s.cfgL.toNat < 8 * s.dlen.toNat) ∧
        t.shamt.toNat = 8 * s.dlen.toNat - s.cfgL.toNat ∧
        t.result.toNat = beValue (s.digest.toList.take s.dlen.toNat) /
          2 ^ (8 * s.dlen.toNat - s.cfgL.toNat)) ∧
      (commandOf e = some .clear ∨ e = .reset →
        t.result = 0#512 ∧ t.shamt = 0#10 ∧ t.shifted = false) ∧
      ((commandOf e = some .convert → s.cfgValid = false) → commandOf e ≠ some .clear → e ≠ .reset →
        t.result = s.result ∧ t.shamt = s.shamt ∧ t.shifted = s.shifted)

/-- R32, R33, R230: every error sets ERR and overwrites ERRCODE with its code of R220; only CLEAR and reset clear
them; a successful command leaves both alone. -/
def Obligations.ErrorBitsWriters : Prop :=
  ∀ (s : State) (e : HostEvent) (rest : List HostEvent), s.pending = e :: rest →
    ∃ t, step s = .next t ∧
      ((∃ w, commandOf e = some (.illegal w)) → t.err = true ∧ t.errcode = 1#4) ∧
      (commandOf e = some (.setl 0#16) → t.err = true ∧ t.errcode = 2#4) ∧
      (∀ nb : BitVec 8, commandOf e = some (.setn nb) → 64 < nb.toNat →
        t.err = true ∧ t.errcode = 3#4) ∧
      (commandOf e = some .convert → s.cfgValid = false → t.err = true ∧ t.errcode = 4#4) ∧
      (commandOf e = some .clear ∨ e = .reset → t.err = false ∧ t.errcode = 0#4) ∧
      ((∀ w, commandOf e ≠ some (.illegal w)) → commandOf e ≠ some (.setl 0#16) →
        (∀ nb : BitVec 8, commandOf e = some (.setn nb) → nb.toNat ≤ 64) →
        (commandOf e = some .convert → s.cfgValid = true) →
        commandOf e ≠ some .clear → e ≠ .reset → t.err = s.err ∧ t.errcode = s.errcode)

/-- R37: the DIGEST buffer is written only by writes to DIGEST_k, in the four bytes of their word, and by CLEAR,
which zeroes it (and redrawn by reset, R49); no operation changes any other byte. -/
def Obligations.DigestWriters : Prop :=
  (∀ (i : Instr) (s : State), ∃ t, exec i s = .next t ∧
    (∀ b : Fin 64, storesByte i b = false → readDigestByte t b = readDigestByte s b) ∧
    (performedCommand i = some .clear → ∀ b : Fin 64, readDigestByte t b = 0#8)) ∧
  (∀ (s : State) (e : HostEvent) (rest : List HostEvent), s.pending = e :: rest →
    (∀ k v, operationOf e ≠ some (.wrDigest k v)) → commandOf e ≠ some .clear → e ≠ .reset →
    ∃ t, step s = .next t ∧ t.digest = s.digest)

/-- R224: a command that raises an error makes exactly the state changes its own rule lists: ERR and ERRCODE, and
for CFG_ZERO_L those of R122. -/
def Obligations.ErrorChangesOnlyItsOwn : Prop :=
  ∀ (c : Command) (s : State) (code : ErrCode), commandError c s = some code →
    exec (instrOfCommand c) s = .next
      (if code = .cfgZeroL then
        { s with cfgL := 0#16, cfgValid := false, resultValid := false, err := true, errcode := 2#4 }
      else { s with err := true, errcode := errCodeBits code })

/-- R47: no command or access but a read of STATUS reads ERR or ERRCODE: with other values of the two, every
operation does the same to everything else. -/
def Obligations.ErrorBitsSteerNothing : Prop :=
  ∀ (i : Instr) (s : State) (e : Bool) (c : BitVec 4), i ≠ .rdStatus →
    ∃ t t', exec i s = .next t ∧ exec i { s with err := e, errcode := c } = .next t' ∧
      { t' with err := t.err, errcode := t.errcode } = t

/-- R65: reads change no state and answer the same again; a DIGEST write or a command word repeated at once gives
the state it gave the first time; writes to RO and reserved offsets change no state. -/
def Obligations.RepeatedAccessIsIdempotent : Prop :=
  (∀ (w : Word) (s t : State), exec (.wrCmd w) s = .next t → exec (.wrCmd w) t = .next t) ∧
  (∀ (k : Fin 16) (v : Word) (s t : State),
    exec (.wrDigest k v) s = .next t → exec (.wrDigest k v) t = .next t) ∧
  (∀ (x : Access) (s : State), x.op = .read → ∃ t, exec (decodeAccess x) s = .next t ∧
    { t with response := s.response } = s ∧ exec (decodeAccess x) t = .next t) ∧
  (∀ (x : Access) (v : Word) (s : State), x.op = .write v → x.size = .word → x.addr % 4 = 0 →
    x.addr % 4096 ≠ 0x008 → ¬ (0x040 ≤ x.addr % 4096 ∧ x.addr % 4096 ≤ 0x07C) →
    ∃ t, exec (decodeAccess x) s = .next t ∧ { t with response := s.response } = s)

/-- R69, R271: a read right after any event sees every effect of it, and no effect of what comes later. -/
def Obligations.ReadSeesEveryEffectBefore : Prop :=
  ∀ (s t : State) (e : HostEvent) (a : Nat) (rest : List HostEvent), a < 4096 → a % 4 = 0 →
    s.pending = e :: .access { op := .read, size := .word, addr := a } :: rest → step s = .next t →
    runSteps 2 s = .next { t with pending := rest, response := .okayData (windowRead t a) }

/-- R270, R275: an accepted write of the CONVERT word to CMD takes CONVERT_LATENCY, and every other access takes
ACCESS_LATENCY; so the time of a write anywhere but to CMD, and of a refused access, does not depend on its data.
(No state is an argument of `accessCycles`, the model's own reading of the two rules: a model has no time,
log 10.) -/
def Obligations.TimingIndependentOfData : Prop :=
  (∀ x : Access, x.op = .write 0x03000000#32 → x.size = .word → x.addr % 4096 = 0x008 →
    accessCycles x = Config.convertLatency) ∧
  (∀ x : Access, ¬ (x.op = .write 0x03000000#32 ∧ x.size = .word ∧ x.addr % 4096 = 0x008) →
    accessCycles x = Config.accessLatency) ∧
  (∀ (size : BusSize) (a : Nat) (v v' : Word), a % 4096 ≠ 0x008 →
    accessCycles { op := .write v, size := size, addr := a } =
      accessCycles { op := .write v', size := size, addr := a }) ∧
  (∀ x x' : Access, performedCommand (decodeAccess x) = some .convert →
    performedCommand (decodeAccess x') = some .convert → accessCycles x = accessCycles x') ∧
  (∀ x : Access, x.size ≠ .word ∨ x.addr % 4 ≠ 0 → accessCycles x = Config.accessLatency)

/-! ### Invariants -/

/-- The state after reset meets R41 to R44. -/
def Obligations.ResetMeetsInvariants : Prop :=
  StateInv State.reset

/-- R41 to R44 are kept by every step from every state that meets them. -/
def Obligations.StepKeepsInvariants : Prop :=
  ∀ s t : State, StateInv s → step s = .next t → StateInv t

/-- R41, R42, R43, R44: "at every point between steps" of every run from reset, whatever the host does. -/
def Obligations.InvariantsHoldBetweenSteps : Prop :=
  ∀ (es : List HostEvent) (k : Nat) (t : State), runSteps k (State.reset.withEvents es) = .next t →
    (t.cfgValid = true ↔ t.cfgL ≠ 0#16) ∧
    (t.resultValid = true → t.cfgValid = true ∧
      t.result.toNat = beValue (t.digest.toList.take t.dlen.toNat) /
        2 ^ (8 * t.dlen.toNat - t.cfgL.toNat) ∧
      t.shamt.toNat = 8 * t.dlen.toNat - t.cfgL.toNat ∧
      (t.shifted = true ↔ t.cfgL.toNat < 8 * t.dlen.toNat)) ∧
    (t.shifted = true ↔ t.shamt ≠ 0#10) ∧
    t.dlen.toNat ≤ 64

/-- ERR = 1 exactly when ERRCODE is not NONE, and codes 5 to 15 are never written (R32, R33; 90_conflicts.md C6):
it holds at reset and every step keeps it. -/
def Obligations.ErrorCodeAgreesWithFlag : Prop :=
  ErrInv State.reset ∧ ∀ s t : State, ErrInv s → step s = .next t → ErrInv t

/-- What a host reads: when STATUS shows RESULT_VALID, the sixteen RESULT words are the conversion of the digest,
length and L that the D2I holds (R28, R40, R42, R140). -/
def Obligations.HostReadsCurrentConversion : Prop :=
  ∀ s : State, StateInv s → ∃ (st : Word) (v : Fin 16 → Word),
    exec .rdStatus s = .next { s with response := .okayData st } ∧
    (∀ k : Fin 16, exec (.rdResult k) s = .next { s with response := .okayData (v k) }) ∧
    (st.getLsbD 1 = true →
      (∑ k : Fin 16, (v k).toNat * 2 ^ (32 * (15 - k.val))) =
        if 8 * s.dlen.toNat > s.cfgL.toNat then
          beValue (s.digest.toList.take s.dlen.toNat) / 2 ^ (8 * s.dlen.toNat - s.cfgL.toNat)
        else beValue (s.digest.toList.take s.dlen.toNat))

/-! ### The host syntax, and the whole conversion -/

/-- R15: `BE(d)` is the sum of `d[i] * 2^(8*(m-1-i))`, and 0 for `m = 0`. -/
def Obligations.BigEndianValueIsTheSum : Prop :=
  beValue [] = 0 ∧
  ∀ d : List Byte,
    beValue d = ∑ i : Fin d.length, (d.get i).toNat * 2 ^ (8 * (d.length - 1 - i.val))

/-- R99: what the command statements assemble to decodes to the command they name, and an operand that does not
fit its field is refused. -/
def Obligations.StatementsAssembleToTheirCommands : Prop :=
  (∀ l : Nat, l ≤ 65535 → ∃ w : Word, Assembler.assemble (.setl l) = .ok [Assembler.cmdOp w] ∧
    decodeCommand w = .setl (BitVec.ofNat 16 l)) ∧
  (∀ l : Nat, 65535 < l → Assembler.assemble (.setl l) = .error .setlOperand) ∧
  (∀ nb : Nat, nb ≤ 255 → ∃ w : Word, Assembler.assemble (.setn nb) = .ok [Assembler.cmdOp w] ∧
    decodeCommand w = .setn (BitVec.ofNat 8 nb)) ∧
  (∀ nb : Nat, 255 < nb → Assembler.assemble (.setn nb) = .error .setnOperand)

/-- R100: LDDIG of `m <= 64` bytes leaves them in DIGEST[0..m-1], pads its last word with zeros, keeps every byte
after it, clears RESULT_VALID when `m > 0` and keeps it when `m = 0`, and changes no other register. -/
def Obligations.LddigLoadsTheDigest : Prop :=
  ∀ (bytes : List Byte) (s : State), bytes.length ≤ 64 →
    ∃ (ops : List Assembler.HostOp) (t : State),
      Assembler.assemble (.lddig bytes) = .ok ops ∧ ops.length = (bytes.length + 3) / 4 ∧
      runSteps ops.length (s.withEvents (ops.map fun o => .access o.access)) = .next t ∧
      (∀ (i : Fin 64) (b : Byte), bytes[i.val]? = some b → readDigestByte t i = b) ∧
      (∀ i : Fin 64, bytes.length ≤ i.val → i.val < 4 * ops.length → readDigestByte t i = 0#8) ∧
      (∀ i : Fin 64, 4 * ops.length ≤ i.val → readDigestByte t i = readDigestByte s i) ∧
      t.cfgL = s.cfgL ∧ t.dlen = s.dlen ∧ t.cfgValid = s.cfgValid ∧ t.result = s.result ∧
      t.shamt = s.shamt ∧ t.shifted = s.shifted ∧ t.err = s.err ∧ t.errcode = s.errcode ∧
      (bytes ≠ [] → t.resultValid = false) ∧ (bytes = [] → t.resultValid = s.resultValid) ∧
      t.resetCount = s.resetCount ∧ t.pending = []

/-- R264: from any state, for every `L` in 1..65535 and every digest of at most 64 bytes, configuring, loading and
CONVERT leave RESULT_VALID = 1 and RESULT = the digest's value, shifted right by `n - L` when `n > L`. -/
def Obligations.ConversionSequenceConverts : Prop :=
  ∀ (l : Nat) (bytes : List Byte) (s : State), 1 ≤ l → l ≤ 65535 → bytes.length ≤ 64 →
    ∃ (a b c : List Assembler.HostOp) (t : State),
      Assembler.assemble (.cfg l bytes.length) = .ok a ∧
      Assembler.assemble (.lddig bytes) = .ok b ∧
      Assembler.assemble .convert = .ok c ∧
      runSteps (a ++ b ++ c).length
        (s.withEvents ((a ++ b ++ c).map fun o => .access o.access)) = .next t ∧
      t.resultValid = true ∧ t.cfgL.toNat = l ∧ t.dlen.toNat = bytes.length ∧
      t.result.toNat = (if 8 * bytes.length > l then beValue bytes / 2 ^ (8 * bytes.length - l)
        else beValue bytes) ∧
      t.shamt.toNat = 8 * bytes.length - l ∧ t.err = s.err ∧ t.errcode = s.errcode

/-! ### The model's table words -/

/-- The model's own layout of a table word, DESIGN CHOICE of log 6, in full: of every length but the 32 bits of a
command, the word with A in bits 11:0, DIR in bit 12, the size code in bits 15:13 and the data in bits 47:16 is the
access with those parts (A and DIR as in the pattern of R97; a read has no data). So a 16-bit word with bits 15:13
at 0 is the 32-bit access, and a write of it writes 0. -/
def Obligations.TableWordLayout : Prop :=
  ∀ (nbits a code : Nat) (v : Word) (size : BusSize), nbits ≠ 32 → a < 4096 → code < 8 →
    size = (if code = 0 then .word else if code = 1 then .byte else if code = 2 then .half else .wider) →
    decodeTableWord nbits (a + 0x2000 * code + 0x10000 * v.toNat) =
      some (decodeAccess { op := .read, size := size, addr := a }) ∧
    decodeTableWord nbits (0x1000 + a + 0x2000 * code + 0x10000 * v.toNat) =
      some (decodeAccess { op := .write v, size := size, addr := a })
end

