-- ==== Sys2Proof/Laws/State.lean ====
section
/-! SUPPORT. One lemma per field of State per update, so that no proof unfolds a record update. -/

namespace Sys2Proof.Machine

variable (s : State)

/-! ### raiseError -/

@[simp] theorem raiseError_cfgL (c : ErrCode) : (raiseError c s).cfgL = s.cfgL := rfl
@[simp] theorem raiseError_dlen (c : ErrCode) : (raiseError c s).dlen = s.dlen := rfl
@[simp] theorem raiseError_digest (c : ErrCode) : (raiseError c s).digest = s.digest := rfl
@[simp] theorem raiseError_result (c : ErrCode) : (raiseError c s).result = s.result := rfl
@[simp] theorem raiseError_shamt (c : ErrCode) : (raiseError c s).shamt = s.shamt := rfl
@[simp] theorem raiseError_cfgValid (c : ErrCode) : (raiseError c s).cfgValid = s.cfgValid := rfl
@[simp] theorem raiseError_resultValid (c : ErrCode) : (raiseError c s).resultValid = s.resultValid := rfl
@[simp] theorem raiseError_shifted (c : ErrCode) : (raiseError c s).shifted = s.shifted := rfl
@[simp] theorem raiseError_err (c : ErrCode) : (raiseError c s).err = true := rfl
@[simp] theorem raiseError_errcode (c : ErrCode) : (raiseError c s).errcode = errCodeBits c := rfl
@[simp] theorem raiseError_pending (c : ErrCode) : (raiseError c s).pending = s.pending := rfl
@[simp] theorem raiseError_response (c : ErrCode) : (raiseError c s).response = s.response := rfl
@[simp] theorem raiseError_resetCount (c : ErrCode) : (raiseError c s).resetCount = s.resetCount := rfl

/-! ### acknowledgeErrors -/

@[simp] theorem acknowledgeErrors_cfgL : (acknowledgeErrors s).cfgL = s.cfgL := rfl
@[simp] theorem acknowledgeErrors_dlen : (acknowledgeErrors s).dlen = s.dlen := rfl
@[simp] theorem acknowledgeErrors_digest : (acknowledgeErrors s).digest = s.digest := rfl
@[simp] theorem acknowledgeErrors_result : (acknowledgeErrors s).result = s.result := rfl
@[simp] theorem acknowledgeErrors_shamt : (acknowledgeErrors s).shamt = s.shamt := rfl
@[simp] theorem acknowledgeErrors_cfgValid : (acknowledgeErrors s).cfgValid = s.cfgValid := rfl
@[simp] theorem acknowledgeErrors_resultValid : (acknowledgeErrors s).resultValid = s.resultValid := rfl
@[simp] theorem acknowledgeErrors_shifted : (acknowledgeErrors s).shifted = s.shifted := rfl
@[simp] theorem acknowledgeErrors_err : (acknowledgeErrors s).err = false := rfl
@[simp] theorem acknowledgeErrors_errcode : (acknowledgeErrors s).errcode = errCodeBits .none := rfl
@[simp] theorem acknowledgeErrors_pending : (acknowledgeErrors s).pending = s.pending := rfl
@[simp] theorem acknowledgeErrors_response : (acknowledgeErrors s).response = s.response := rfl
@[simp] theorem acknowledgeErrors_resetCount : (acknowledgeErrors s).resetCount = s.resetCount := rfl

/-! ### writeDigestWord -/

@[simp] theorem writeDigestWord_cfgL (k : Fin 16) (v : Word) : (writeDigestWord k v s).cfgL = s.cfgL := rfl
@[simp] theorem writeDigestWord_dlen (k : Fin 16) (v : Word) : (writeDigestWord k v s).dlen = s.dlen := rfl
@[simp] theorem writeDigestWord_result (k : Fin 16) (v : Word) : (writeDigestWord k v s).result = s.result := rfl
@[simp] theorem writeDigestWord_shamt (k : Fin 16) (v : Word) : (writeDigestWord k v s).shamt = s.shamt := rfl
@[simp] theorem writeDigestWord_cfgValid (k : Fin 16) (v : Word) : (writeDigestWord k v s).cfgValid = s.cfgValid := rfl
@[simp] theorem writeDigestWord_resultValid (k : Fin 16) (v : Word) : (writeDigestWord k v s).resultValid = s.resultValid := rfl
@[simp] theorem writeDigestWord_shifted (k : Fin 16) (v : Word) : (writeDigestWord k v s).shifted = s.shifted := rfl
@[simp] theorem writeDigestWord_err (k : Fin 16) (v : Word) : (writeDigestWord k v s).err = s.err := rfl
@[simp] theorem writeDigestWord_errcode (k : Fin 16) (v : Word) : (writeDigestWord k v s).errcode = s.errcode := rfl
@[simp] theorem writeDigestWord_pending (k : Fin 16) (v : Word) : (writeDigestWord k v s).pending = s.pending := rfl
@[simp] theorem writeDigestWord_response (k : Fin 16) (v : Word) : (writeDigestWord k v s).response = s.response := rfl
@[simp] theorem writeDigestWord_resetCount (k : Fin 16) (v : Word) : (writeDigestWord k v s).resetCount = s.resetCount := rfl

/-! ### zeroDigest -/

@[simp] theorem zeroDigest_cfgL : (zeroDigest s).cfgL = s.cfgL := rfl
@[simp] theorem zeroDigest_dlen : (zeroDigest s).dlen = s.dlen := rfl
@[simp] theorem zeroDigest_digest : (zeroDigest s).digest = Vector.replicate 64 0x00#8 := rfl
@[simp] theorem zeroDigest_result : (zeroDigest s).result = s.result := rfl
@[simp] theorem zeroDigest_shamt : (zeroDigest s).shamt = s.shamt := rfl
@[simp] theorem zeroDigest_cfgValid : (zeroDigest s).cfgValid = s.cfgValid := rfl
@[simp] theorem zeroDigest_resultValid : (zeroDigest s).resultValid = s.resultValid := rfl
@[simp] theorem zeroDigest_shifted : (zeroDigest s).shifted = s.shifted := rfl
@[simp] theorem zeroDigest_err : (zeroDigest s).err = s.err := rfl
@[simp] theorem zeroDigest_errcode : (zeroDigest s).errcode = s.errcode := rfl
@[simp] theorem zeroDigest_pending : (zeroDigest s).pending = s.pending := rfl
@[simp] theorem zeroDigest_response : (zeroDigest s).response = s.response := rfl
@[simp] theorem zeroDigest_resetCount : (zeroDigest s).resetCount = s.resetCount := rfl

/-! ### respond -/

@[simp] theorem respond_cfgL (r : BusResp) : (respond r s).cfgL = s.cfgL := rfl
@[simp] theorem respond_dlen (r : BusResp) : (respond r s).dlen = s.dlen := rfl
@[simp] theorem respond_digest (r : BusResp) : (respond r s).digest = s.digest := rfl
@[simp] theorem respond_result (r : BusResp) : (respond r s).result = s.result := rfl
@[simp] theorem respond_shamt (r : BusResp) : (respond r s).shamt = s.shamt := rfl
@[simp] theorem respond_cfgValid (r : BusResp) : (respond r s).cfgValid = s.cfgValid := rfl
@[simp] theorem respond_resultValid (r : BusResp) : (respond r s).resultValid = s.resultValid := rfl
@[simp] theorem respond_shifted (r : BusResp) : (respond r s).shifted = s.shifted := rfl
@[simp] theorem respond_err (r : BusResp) : (respond r s).err = s.err := rfl
@[simp] theorem respond_errcode (r : BusResp) : (respond r s).errcode = s.errcode := rfl
@[simp] theorem respond_pending (r : BusResp) : (respond r s).pending = s.pending := rfl
@[simp] theorem respond_response (r : BusResp) : (respond r s).response = r := rfl
@[simp] theorem respond_resetCount (r : BusResp) : (respond r s).resetCount = s.resetCount := rfl

/-! ### presentAccess -/

@[simp] theorem presentAccess_cfgL (x : Access) : (presentAccess x s).cfgL = s.cfgL := rfl
@[simp] theorem presentAccess_dlen (x : Access) : (presentAccess x s).dlen = s.dlen := rfl
@[simp] theorem presentAccess_digest (x : Access) : (presentAccess x s).digest = s.digest := rfl
@[simp] theorem presentAccess_result (x : Access) : (presentAccess x s).result = s.result := rfl
@[simp] theorem presentAccess_shamt (x : Access) : (presentAccess x s).shamt = s.shamt := rfl
@[simp] theorem presentAccess_cfgValid (x : Access) : (presentAccess x s).cfgValid = s.cfgValid := rfl
@[simp] theorem presentAccess_resultValid (x : Access) : (presentAccess x s).resultValid = s.resultValid := rfl
@[simp] theorem presentAccess_shifted (x : Access) : (presentAccess x s).shifted = s.shifted := rfl
@[simp] theorem presentAccess_err (x : Access) : (presentAccess x s).err = s.err := rfl
@[simp] theorem presentAccess_errcode (x : Access) : (presentAccess x s).errcode = s.errcode := rfl
@[simp] theorem presentAccess_pending (x : Access) : (presentAccess x s).pending = .access x :: s.pending := rfl
@[simp] theorem presentAccess_response (x : Access) : (presentAccess x s).response = s.response := rfl
@[simp] theorem presentAccess_resetCount (x : Access) : (presentAccess x s).resetCount = s.resetCount := rfl

/-! ### hardReset -/

@[simp] theorem hardReset_cfgL : (hardReset s).cfgL = 0#16 := rfl
@[simp] theorem hardReset_dlen : (hardReset s).dlen = 0#7 := rfl
@[simp] theorem hardReset_digest : (hardReset s).digest = drawDigest (s.resetCount + 1) := rfl
@[simp] theorem hardReset_result : (hardReset s).result = 0#512 := rfl
@[simp] theorem hardReset_shamt : (hardReset s).shamt = 0#10 := rfl
@[simp] theorem hardReset_cfgValid : (hardReset s).cfgValid = false := rfl
@[simp] theorem hardReset_resultValid : (hardReset s).resultValid = false := rfl
@[simp] theorem hardReset_shifted : (hardReset s).shifted = false := rfl
@[simp] theorem hardReset_err : (hardReset s).err = false := rfl
@[simp] theorem hardReset_errcode : (hardReset s).errcode = 0#4 := rfl
@[simp] theorem hardReset_pending : (hardReset s).pending = s.pending := rfl
@[simp] theorem hardReset_response : (hardReset s).response = .idle := rfl
@[simp] theorem hardReset_resetCount : (hardReset s).resetCount = s.resetCount + 1 := rfl

/-! ### withEvents -/

@[simp] theorem withEvents_cfgL (es : List HostEvent) : (s.withEvents es).cfgL = s.cfgL := rfl
@[simp] theorem withEvents_dlen (es : List HostEvent) : (s.withEvents es).dlen = s.dlen := rfl
@[simp] theorem withEvents_digest (es : List HostEvent) : (s.withEvents es).digest = s.digest := rfl
@[simp] theorem withEvents_result (es : List HostEvent) : (s.withEvents es).result = s.result := rfl
@[simp] theorem withEvents_shamt (es : List HostEvent) : (s.withEvents es).shamt = s.shamt := rfl
@[simp] theorem withEvents_cfgValid (es : List HostEvent) : (s.withEvents es).cfgValid = s.cfgValid := rfl
@[simp] theorem withEvents_resultValid (es : List HostEvent) : (s.withEvents es).resultValid = s.resultValid := rfl
@[simp] theorem withEvents_shifted (es : List HostEvent) : (s.withEvents es).shifted = s.shifted := rfl
@[simp] theorem withEvents_err (es : List HostEvent) : (s.withEvents es).err = s.err := rfl
@[simp] theorem withEvents_errcode (es : List HostEvent) : (s.withEvents es).errcode = s.errcode := rfl
@[simp] theorem withEvents_pending (es : List HostEvent) : (s.withEvents es).pending = es := rfl
@[simp] theorem withEvents_response (es : List HostEvent) : (s.withEvents es).response = s.response := rfl
@[simp] theorem withEvents_resetCount (es : List HostEvent) : (s.withEvents es).resetCount = s.resetCount := rfl

end Sys2Proof.Machine
end

