-- ==== Sys2Proof/Laws/Ops.lean ====
section
/-! SUPPORT. What each shared operation does, said once: the values a CONVERT computes, the DIGEST buffer's read
after write and frame, the answers of the bus, and the three cases of a step. -/

namespace Sys2Proof.Machine

/-! ### The big-endian value and the conversion -/

theorem beValue_lt (d : List Byte) : beValue d < 2 ^ (8 * d.length) := by
  induction d with
  | nil => simp [beValue]
  | cons b rest ih =>
    have hpow : 2 ^ (8 * (rest.length + 1)) = 2 ^ 8 * 2 ^ (8 * rest.length) := by
      rw [← pow_add]; congr 1; omega
    have hb := b.isLt
    simp only [beValue, List.length_cons, hpow]
    nlinarith [Nat.two_pow_pos (8 * rest.length)]

/-- Bit `b` of the value is bit `b mod 8` of the byte `b div 8` places from the last. -/
theorem beValue_testBit (d : List Byte) (b : Nat) (h : b < 8 * d.length) :
    (beValue d).testBit b = (d.getD (d.length - 1 - b / 8) 0#8).getLsbD (b % 8) := by
  induction d with
  | nil => simp at h
  | cons x rest ih =>
    simp only [beValue, List.length_cons] at h ⊢
    rw [mul_comm, Nat.testBit_two_pow_mul_add _ (beValue_lt rest)]
    split
    · next hb =>
      rw [ih hb, show rest.length + 1 - 1 - b / 8 = rest.length - 1 - b / 8 + 1 by omega]
      simp
    · rw [show rest.length + 1 - 1 - b / 8 = 0 by omega,
        show b - 8 * rest.length = b % 8 by omega]
      rfl

theorem beValue_append (c d : List Byte) :
    beValue (c ++ d) = beValue c * 2 ^ (8 * d.length) + beValue d := by
  induction c with
  | nil => simp [beValue]
  | cons b rest ih =>
    have hpow : 2 ^ (8 * (rest ++ d).length) = 2 ^ (8 * rest.length) * 2 ^ (8 * d.length) := by
      rw [← pow_add, List.length_append, Nat.mul_add]
    rw [List.cons_append, beValue, beValue, ih, hpow]
    ring

theorem digestBytes_length {s : State} (h : s.dlen.toNat ≤ 64) :
    (digestBytes s).length = s.dlen.toNat := by
  simp [digestBytes, h]

theorem digestValue_lt {s : State} (h : s.dlen.toNat ≤ 64) :
    digestValue s < 2 ^ (8 * s.dlen.toNat) :=
  digestBytes_length h ▸ beValue_lt (digestBytes s)

theorem convertShifted_iff (s : State) :
    convertShifted s = true ↔ s.cfgL.toNat < 8 * s.dlen.toNat := by
  simp [convertShifted, digestBits, targetBits]

/-- SHAMT is `n - L`, or 0 when `n <= L`; no value wraps (R149). -/
theorem convertShamt_toNat {s : State} (h : s.dlen.toNat ≤ 64) :
    (convertShamt s).toNat = 8 * s.dlen.toNat - s.cfgL.toNat := by
  unfold convertShamt digestBits targetBits
  split
  · rw [BitVec.toNat_ofNat, Nat.mod_eq_of_lt (by omega)]
  · simp; omega

/-- RESULT is the digest's value divided by `2^(n - L)`, exactly: no value wraps (R149). -/
theorem convertResult_toNat {s : State} (h : s.dlen.toNat ≤ 64) :
    (convertResult s).toNat = digestValue s / 2 ^ (8 * s.dlen.toNat - s.cfgL.toNat) := by
  have hlt : digestValue s < 2 ^ 512 :=
    lt_of_lt_of_le (digestValue_lt h) (Nat.pow_le_pow_right (by norm_num) (by omega))
  unfold convertResult digestBits targetBits
  split
  · rw [BitVec.toNat_ofNat, Nat.shiftRight_eq_div_pow,
      Nat.mod_eq_of_lt (lt_of_le_of_lt (Nat.div_le_self _ _) hlt)]
  · rw [BitVec.toNat_ofNat, Nat.mod_eq_of_lt hlt, show 8 * s.dlen.toNat - s.cfgL.toNat = 0 by omega]
    simp

/-! ### The data buffers -/

theorem readDigestByte_eq_getElem (s : State) (i : Fin 64) : readDigestByte s i = s.digest[i.val] := rfl

/-- After a write of DIGEST_k, its four bytes hold the word, most significant first, and every other byte is as
it was (R193). -/
theorem readDigestByte_writeDigestWord (k : Fin 16) (v : Word) (s : State) (i : Fin 64) :
    readDigestByte (writeDigestWord k v s) i =
      if i.val / 4 = k.val then v.extractLsb' (24 - 8 * (i.val % 4)) 8 else readDigestByte s i := by
  simp only [readDigestByte_eq_getElem, writeDigestWord, digestIndex, Vector.getElem_set]
  have hi := Nat.div_add_mod i.val 4
  have hm := Nat.mod_lt i.val (show 4 > 0 by norm_num)
  by_cases hk : i.val / 4 = k.val
  · rw [if_pos hk]
    interval_cases hr : i.val % 4 <;> simp <;> grind
  · rw [if_neg hk]
    simp; grind

theorem readDigestByte_zeroDigest (s : State) (i : Fin 64) :
    readDigestByte (zeroDigest s) i = 0#8 := by
  simp [readDigestByte, zeroDigest]

theorem readDigestByte_drawDigest (s : State) (i : Fin 64) :
    readDigestByte (hardReset s) i = Config.digestResetContents (s.resetCount + 1) i.val := by
  simp [readDigestByte, hardReset, drawDigest]

/-! ### Steps -/

theorem step_access {s : State} {x : Access} {rest : List HostEvent}
    (h : s.pending = .access x :: rest) :
    step s = exec (decodeAccess x) { s with pending := rest } := by
  simp only [step, takeEvent, h]

theorem step_reset {s : State} {rest : List HostEvent} (h : s.pending = .reset :: rest) :
    step s = .next (hardReset { s with pending := rest }) := by
  simp only [step, takeEvent, h]

/-- The three things a step can be: nothing presented, a reset, or an access performed. -/
theorem step_cases {s t : State} (h : step s = .next t) :
    (s.pending = [] ∧ t = s) ∨
    (∃ rest, s.pending = .reset :: rest ∧ t = hardReset { s with pending := rest }) ∨
    (∃ x rest, s.pending = .access x :: rest ∧
      exec (decodeAccess x) { s with pending := rest } = .next t) := by
  match hp : s.pending with
  | [] =>
    simp only [step, takeEvent, hp, idle, Host.Outcome.next.injEq] at h
    exact .inl ⟨rfl, h.symm⟩
  | .reset :: rest =>
    rw [step_reset hp, Host.Outcome.next.injEq] at h
    exact .inr (.inl ⟨rest, rfl, h.symm⟩)
  | .access x :: rest =>
    rw [step_access hp] at h
    exact .inr (.inr ⟨x, rest, rfl, h⟩)

/-- One step of a run of any machine. -/
theorem core_run_succ (M : Host.Core) (k : Nat) (s : M.State) :
    M.run (k + 1) s = match M.step s with
      | .next t => M.run k t
      | .fault r => .fault r
      | .refused r => .refused r := by
  cases h : M.step s <;> simp [Host.Core.run, h]

/-- The run the host's interface knows is `runSteps`. -/
theorem core_run_eq_runSteps (k : Nat) (s : State) : Sys2Proof.core.run k s = runSteps k s := by
  induction k generalizing s with
  | zero => rfl
  | succ k ih =>
    have h := core_run_succ Sys2Proof.core k s
    rw [show Sys2Proof.core.step s = step s from rfl] at h
    rw [runSteps]
    refine h.trans ?_
    cases step s with
    | next t => exact ih t
    | fault r => rfl
    | refused r => rfl

theorem runSteps_add (j k : Nat) {s t : State} (h : runSteps j s = .next t) :
    runSteps (j + k) s = runSteps k t := by
  induction j generalizing s with
  | zero => simp only [runSteps, Host.Outcome.next.injEq] at h; simp [h]
  | succ j ih =>
    rw [Nat.succ_add, runSteps]
    rw [runSteps] at h
    cases hs : step s with
    | next u => rw [hs] at h; exact ih h
    | fault r => rw [hs] at h; cases h
    | refused r => rw [hs] at h; cases h

/-- What every step keeps holds along every run. -/
theorem runSteps_induction {P : State → Prop} (keep : ∀ s t, P s → step s = .next t → P t)
    (k : Nat) {s t : State} (hs : P s) (h : runSteps k s = .next t) : P t := by
  induction k generalizing s with
  | zero => simp only [runSteps, Host.Outcome.next.injEq] at h; exact h ▸ hs
  | succ k ih =>
    rw [runSteps] at h
    cases hst : step s with
    | next u => rw [hst] at h; exact ih (keep s u hs hst) h
    | fault r => rw [hst] at h; cases h
    | refused r => rw [hst] at h; cases h

/-! ### Which operation performs a command -/

/-- An operation that performs a command is the command itself or a write of its word to CMD. -/
theorem performedCommand_cases {i : Instr} {c : Command} (h : performedCommand i = some c) :
    i = instrOfCommand c ∨ ∃ w, i = .wrCmd w ∧ decodeCommand w = c := by
  cases i <;> simp_all [performedCommand] <;> subst h <;> simp [instrOfCommand]

theorem exec_instrOfCommand (c : Command) (s : State) : exec (instrOfCommand c) s = performCommand c s := by
  cases c <;> rfl

/-- SETN by its length, with NMAX_BYTES as the number it is (R7). -/
theorem execSetn_eq (nb : BitVec 8) (s : State) :
    execSetn nb s = if nb.toNat ≤ 64 then .next { s with dlen := nb.setWidth 7, resultValid := false }
      else .next (raiseError .badDlen s) := rfl

/-- What a command does to the state, case by case, guards included. -/
theorem performCommand_cases {c : Command} {s t : State} (h : performCommand c s = .next t) :
    (c = .nop ∧ t = s) ∨
    (∃ l, c = .setl l ∧ l ≠ 0#16 ∧ t = { s with cfgL := l, cfgValid := true, resultValid := false }) ∨
    (c = .setl 0#16 ∧
      t = raiseError .cfgZeroL { s with cfgL := 0#16, cfgValid := false, resultValid := false }) ∨
    (∃ nb : BitVec 8, c = .setn nb ∧ nb.toNat ≤ 64 ∧
      t = { s with dlen := nb.setWidth 7, resultValid := false }) ∨
    (∃ nb : BitVec 8, c = .setn nb ∧ 64 < nb.toNat ∧ t = raiseError .badDlen s) ∨
    (c = .convert ∧ s.cfgValid = true ∧ t = { s with
      result := convertResult s, shamt := convertShamt s, shifted := convertShifted s,
      resultValid := true }) ∨
    (c = .convert ∧ s.cfgValid = false ∧ t = raiseError .noConfig s) ∨
    (c = .clear ∧ t = { acknowledgeErrors (zeroDigest s) with
      result := 0#512, shamt := 0#10, resultValid := false, shifted := false }) ∨
    (∃ w, c = .illegal w ∧ t = raiseError .illegalCmd s) := by
  cases c with
  | nop => cases h; simp
  | setl l =>
    simp only [performCommand, execSetl] at h
    split at h
    · next hl => cases h; simp [hl]
    · next hl => cases h; simp [hl]
  | setn nb =>
    simp only [performCommand, execSetn_eq] at h
    split at h
    · next hb => cases h; simp [hb]
    · next hb => cases h; simp [Nat.lt_of_not_le hb]
  | convert =>
    simp only [performCommand, execConvert] at h
    split at h
    · next hv => cases h; simp [hv]
    · next hv => cases h; simp [Bool.eq_false_iff.2 hv]
  | clear => cases h; simp
  | illegal w => cases h; simp

/-- What an operation does to the state: it performs a command, it writes a DIGEST word, or it only answers. -/
theorem exec_cases {i : Instr} {s t : State} (h : exec i s = .next t) :
    (∃ c u, performedCommand i = some c ∧ performCommand c s = .next u ∧
      (t = u ∨ t = respond .okay u)) ∨
    (∃ k v, i = .wrDigest k v ∧
      t = respond .okay { writeDigestWord k v s with resultValid := false }) ∨
    (performedCommand i = none ∧ (∀ k v, i ≠ .wrDigest k v) ∧ ∃ r, t = respond r s) := by
  cases i with
  | nop => exact .inl ⟨.nop, t, rfl, h, .inl rfl⟩
  | setl l => exact .inl ⟨.setl l, t, rfl, h, .inl rfl⟩
  | setn nb => exact .inl ⟨.setn nb, t, rfl, h, .inl rfl⟩
  | convert => exact .inl ⟨.convert, t, rfl, h, .inl rfl⟩
  | clear => exact .inl ⟨.clear, t, rfl, h, .inl rfl⟩
  | illegalCmd w => exact .inl ⟨.illegal w, t, rfl, h, .inl rfl⟩
  | wrCmd w =>
    simp only [exec, execWrCmd] at h
    cases hc : performCommand (decodeCommand w) s with
    | next u => rw [hc] at h; cases h; exact .inl ⟨_, u, rfl, hc, .inr rfl⟩
    | fault r => cases r
    | refused r => rw [hc] at h; cases h
  | wrDigest k v => cases h; exact .inr (.inl ⟨k, v, rfl, rfl⟩)
  | wrIgnored a v => cases h; exact .inr (.inr ⟨rfl, by simp, _, rfl⟩)
  | rdId => cases h; exact .inr (.inr ⟨rfl, by simp, _, rfl⟩)
  | rdParam => cases h; exact .inr (.inr ⟨rfl, by simp, _, rfl⟩)
  | rdCmd => cases h; exact .inr (.inr ⟨rfl, by simp, _, rfl⟩)
  | rdStatus => cases h; exact .inr (.inr ⟨rfl, by simp, _, rfl⟩)
  | rdCfgL => cases h; exact .inr (.inr ⟨rfl, by simp, _, rfl⟩)
  | rdCfgN => cases h; exact .inr (.inr ⟨rfl, by simp, _, rfl⟩)
  | rdShamt => cases h; exact .inr (.inr ⟨rfl, by simp, _, rfl⟩)
  | rdDigest k => cases h; exact .inr (.inr ⟨rfl, by simp, _, rfl⟩)
  | rdResult k => cases h; exact .inr (.inr ⟨rfl, by simp, _, rfl⟩)
  | rdReserved a => cases h; exact .inr (.inr ⟨rfl, by simp, _, rfl⟩)
  | busErr op size a => cases h; exact .inr (.inr ⟨rfl, by simp, _, rfl⟩)

end Sys2Proof.Machine
end

