-- ==== Sys2Proof/Laws/PerInstr.lean ====
section
/-! SUPPORT. One family of statements about every instruction as syntax: the access by which a well-formed
operation reaches the D2I passes the bus check, 32 bits wide and word aligned (R63), unless it is BUSERR. -/

namespace Sys2Proof.Laws.BusCheck

/-- Every form but the refused one. -/
def accepted : Instr → Bool
  | .busErr _ _ _ => false
  | _ => true

def Statement (i : Instr) : Prop :=
  i.wellFormed = true → busAccepts (accessOfEncoded (encode i)) = accepted i

/-- A command word reaches the D2I as a write to CMD, whatever the word. -/
theorem commandWrite_accepted (w : Word) : busAccepts (accessOfEncoded (.command w)) = true := by
  simp [busAccepts, accessOfEncoded, wordAccess, accessOffset]

/-- The sixteen words of a data window are aligned. -/
theorem windowAccess_accepted (op : BusOp) (k : Fin 16) :
    busAccepts (wordAccess op (0x040 + 4 * k.val)) = true ∧
      busAccepts (wordAccess op (0x080 + 4 * k.val)) = true := by
  have h : ∀ k : Fin 16, (BitVec.ofNat 12 (0x040 + 4 * k.val)).extractLsb' 0 2 = 0#2 ∧
      (BitVec.ofNat 12 (0x080 + 4 * k.val)).extractLsb' 0 2 = 0#2 := by decide
  simp [busAccepts, wordAccess, accessOffset, (h k).1, (h k).2]

theorem nop : Statement .nop := fun _ => commandWrite_accepted _
theorem setl (l : BitVec 16) : Statement (.setl l) := fun _ => commandWrite_accepted _
theorem setn (nb : BitVec 8) : Statement (.setn nb) := fun _ => commandWrite_accepted _
theorem convert : Statement .convert := fun _ => commandWrite_accepted _
theorem clear : Statement .clear := fun _ => commandWrite_accepted _
theorem illegalCmd (w : Word) : Statement (.illegalCmd w) := fun _ => commandWrite_accepted w
theorem wrCmd (w : Word) : Statement (.wrCmd w) := fun _ => commandWrite_accepted w
theorem wrDigest (k : Fin 16) (v : Word) : Statement (.wrDigest k v) := fun _ =>
  (windowAccess_accepted (.write v) k).1

/-- The bus check reads alignment off the two low bits of the offset. -/
theorem low_bits_zero {a : Offset} (h : wordAligned a = true) :
    (accessOffset (wordAccess .read a.toNat)).extractLsb' 0 2 = 0#2 := by
  simp only [wordAligned, beq_iff_eq] at h
  apply BitVec.eq_of_toNat_eq
  simp [accessOffset, wordAccess, h]

theorem wrIgnored (a : Offset) (v : Word) : Statement (.wrIgnored a v) := by
  intro h
  simp only [Instr.wellFormed, Bool.and_eq_true] at h
  simpa [busAccepts, encode, accessOfEncoded, wordAccess, accepted, accessOffset] using low_bits_zero h.1.1

theorem rdId : Statement .rdId := fun _ => rfl
theorem rdParam : Statement .rdParam := fun _ => rfl
theorem rdCmd : Statement .rdCmd := fun _ => rfl
theorem rdStatus : Statement .rdStatus := fun _ => rfl
theorem rdCfgL : Statement .rdCfgL := fun _ => rfl
theorem rdCfgN : Statement .rdCfgN := fun _ => rfl
theorem rdShamt : Statement .rdShamt := fun _ => rfl
theorem rdDigest (k : Fin 16) : Statement (.rdDigest k) := fun _ => (windowAccess_accepted .read k).1
theorem rdResult (k : Fin 16) : Statement (.rdResult k) := fun _ => (windowAccess_accepted .read k).2

theorem rdReserved (a : Offset) : Statement (.rdReserved a) := by
  intro h
  simp only [Instr.wellFormed, Bool.and_eq_true] at h
  simpa [busAccepts, encode, accessOfEncoded, wordAccess, accepted, accessOffset] using low_bits_zero h.1.1.1

theorem busErr (op : BusOp) (size : BusSize) (a : Offset) : Statement (.busErr op size a) := by
  intro h
  simp only [Instr.wellFormed, Bool.or_eq_true, bne_iff_ne, Bool.not_eq_true', wordAligned,
    beq_eq_false_iff_ne] at h
  simp only [busAccepts, encode, accessOfEncoded, accepted, accessOffset, Bool.and_eq_false_iff,
    beq_eq_false_iff_ne]
  refine h.imp id fun ha hz => ha ?_
  have := congrArg BitVec.toNat hz
  simpa using this

end Sys2Proof.Laws.BusCheck
end

