-- ==== Sys2Proof/Tests/Slice0.lean ====
section
/-! SUPPORT. The model's own tests. Expected words and values are the spec's: encodings of 30_encoding.md, vectors
V, S, N, H of 95_test_vectors.md and the examples of the rules, named at each test. -/

namespace Sys2Proof.Tests

open Sys2Proof.Machine

/-! ### WellFormed refuses each ill-formed term -/

theorem test_wf_illegal_word : Instr.wellFormed (.illegalCmd 0x05000000#32) = true := by decide
theorem test_wf_refuses_legal_word_as_illegal :
    (Instr.wellFormed (.illegalCmd 0x00000000#32), Instr.wellFormed (.illegalCmd 0x010000FF#32),
      Instr.wellFormed (.illegalCmd 0x020000FF#32), Instr.wellFormed (.illegalCmd 0x03000000#32),
      Instr.wellFormed (.illegalCmd 0x04000000#32)) = (false, false, false, false, false) := by decide
theorem test_wf_refuses_ignored_write_to_cmd : Instr.wellFormed (.wrIgnored 0x008#12 0#32) = false := by decide
theorem test_wf_refuses_ignored_write_to_digest :
    Instr.wellFormed (.wrIgnored 0x07C#12 0#32) = false := by decide
theorem test_wf_refuses_unaligned_ignored_write :
    Instr.wellFormed (.wrIgnored 0x0C1#12 0#32) = false := by decide
theorem test_wf_refuses_reserved_read_of_register :
    Instr.wellFormed (.rdReserved 0x018#12) = false := by decide
theorem test_wf_refuses_reserved_read_of_digest :
    Instr.wellFormed (.rdReserved 0x040#12) = false := by decide
theorem test_wf_refuses_reserved_read_of_result :
    Instr.wellFormed (.rdReserved 0x0BC#12) = false := by decide
theorem test_wf_refuses_unaligned_reserved_read :
    Instr.wellFormed (.rdReserved 0x01E#12) = false := by decide
theorem test_wf_refuses_buserr_of_accepted_access :
    Instr.wellFormed (.busErr .read .word 0x040#12) = false := by decide

/-! ### Decoding: one word per constructor, written out from R92, R94 and R97 -/

theorem test_decode_nop : decodeTableWord 32 0x00000000 = some .nop := by decide
theorem test_decode_setl : decodeTableWord 32 0x0100FFFF = some (.setl 65535#16) := by decide  -- S5
theorem test_decode_setn : decodeTableWord 32 0x02000041 = some (.setn 65#8) := by decide  -- S9
theorem test_decode_convert : decodeTableWord 32 0x03000000 = some .convert := by decide
theorem test_decode_clear : decodeTableWord 32 0x04000000 = some .clear := by decide
theorem test_decode_illegal_reserved_bit :
    decodeTableWord 32 0x02000141 = some (.illegalCmd 0x02000141#32) := by decide  -- S12
theorem test_decode_illegal_opcode :
    decodeTableWord 32 0xFFFFFFFF = some (.illegalCmd 0xFFFFFFFF#32) := by decide  -- N5
theorem test_decode_wr_cmd : decodeTableWord 16 0x1008 = some (.wrCmd 0#32) := by decide
theorem test_decode_wr_digest : decodeTableWord 16 0x107C = some (.wrDigest 15 0#32) := by decide
theorem test_decode_wr_ignored : decodeTableWord 16 0x100C = some (.wrIgnored 0x00C#12 0#32) := by decide  -- H9
theorem test_decode_rd_id : decodeTableWord 16 0x0000 = some .rdId := by decide
theorem test_decode_rd_param : decodeTableWord 16 0x0004 = some .rdParam := by decide
theorem test_decode_rd_cmd : decodeTableWord 16 0x0008 = some .rdCmd := by decide
theorem test_decode_rd_status : decodeTableWord 16 0x000C = some .rdStatus := by decide
theorem test_decode_rd_cfg_l : decodeTableWord 16 0x0010 = some .rdCfgL := by decide
theorem test_decode_rd_cfg_n : decodeTableWord 16 0x0014 = some .rdCfgN := by decide
theorem test_decode_rd_shamt : decodeTableWord 16 0x0018 = some .rdShamt := by decide
theorem test_decode_rd_digest : decodeTableWord 16 0x0044 = some (.rdDigest 1) := by decide
theorem test_decode_rd_result : decodeTableWord 16 0x00A0 = some (.rdResult 8) := by decide  -- H16
theorem test_decode_rd_reserved : decodeTableWord 16 0x0FFC = some (.rdReserved 0xFFC#12) := by decide  -- H11
theorem test_decode_buserr_alignment :
    decodeTableWord 16 0x0042 = some (.busErr .read .word 0x042#12) := by decide  -- H14
theorem test_decode_buserr_size :
    decodeAccess { op := .write 0#32, size := .byte, addr := 0x040 } =
      .busErr (.write 0#32) .byte 0x040#12 := by decide  -- H13

/-! ### Meanings, one step each -/

/-- The state an outcome ends in. -/
def after : Outcome → State
  | .next t => t
  | .fault _ => State.reset
  | .refused _ => State.reset

/-- Configured with `L = l` and `nb` bytes, whose first three are given. -/
def loaded (l nb : Nat) (a b c : Byte) : State :=
  { State.reset with
    cfgL := BitVec.ofNat 16 l, cfgValid := true, dlen := BitVec.ofNat 7 nb,
    digest := (((Vector.replicate 64 0xEE#8).set 0 a).set 1 b).set 2 c }

/-- The state R172 gives as the example: a CONVERT of 0xB5 with L = 7 has left 0x5A. -/
def converted : State :=
  { loaded 7 1 0xB5#8 0#8 0#8 with
    result := 0x5A#512, shamt := 1#10, shifted := true, resultValid := true }

theorem test_convert_bit_level_shift :  -- V3
    let t := after (exec .convert (loaded 7 1 0xB5#8 0#8 0#8))
    (t.result, t.shamt, statusWord t) = (0x5A#512, 1#10, 0x00000007#32) := by decide +kernel
theorem test_convert_across_bytes :  -- V22
    let t := after (exec .convert (loaded 20 3 0x12#8 0x34#8 0x56#8))
    (t.result, t.shamt, t.shifted) = (0x12345#512, 4#10, true) := by decide +kernel
theorem test_setl_zero_rejected :  -- S3
    let t := after (exec (.setl 0#16) (loaded 255 1 0#8 0#8 0#8))
    (t.cfgL, statusWord t) = (0#16, 0x00000208#32) := by decide +kernel
theorem test_setl_clears_result_valid :  -- S2
    statusWord (after (exec (.setl 7#16) { converted with shifted := false })) = 0x00000001#32 := by
  decide +kernel
theorem test_setn_longest :  -- S8
    (after (exec (.setn 64#8) State.reset)).dlen = 64#7 := by decide +kernel
theorem test_setn_too_long :  -- S9
    let t := after (exec (.setn 65#8) (loaded 8 20 0#8 0#8 0#8))
    (t.dlen, t.err, t.errcode) = (20#7, true, 3#4) := by decide +kernel
theorem test_clear_keeps_configuration :  -- N6
    let t := after (exec .clear converted)
    (t.cfgL, t.dlen, t.result, t.shamt, readDigestByte t 0, statusWord t) =
      (7#16, 1#7, 0#512, 0#10, 0x00#8, 0x00000001#32) := by decide +kernel
theorem test_convert_unconfigured :  -- V24, program P4
    statusWord (after (exec .convert State.reset)) = 0x00000408#32 := by decide +kernel
theorem test_wr_cmd_illegal_reserved_bit :  -- S12: code 1, not 3
    let t := after (exec (.wrCmd 0x02000141#32) (loaded 8 20 0#8 0#8 0#8))
    (t.dlen, t.errcode, t.response) = (20#7, 1#4, .okay) := by decide +kernel
theorem test_wr_digest_word :  -- H7
    let t := after (exec (.wrDigest 3 0x01020304#32) converted)
    (readDigestByte t 12, readDigestByte t 15, readDigestByte t 11, t.resultValid) =
      (0x01#8, 0x04#8, 0xEE#8, false) := by decide +kernel
theorem test_rd_digest_word :  -- R202
    (after (exec (.rdDigest 0) (loaded 8 1 0x12#8 0x34#8 0x56#8))).response =
      .okayData 0x123456EE#32 := by decide +kernel
theorem test_rd_result_words :  -- R203
    ((after (exec (.rdResult 15) converted)).response, (after (exec (.rdResult 0) converted)).response) =
      (.okayData 0x0000005A#32, .okayData 0x00000000#32) := by decide +kernel
theorem test_rd_status : (after (exec .rdStatus converted)).response = .okayData 0x00000007#32 := by
  decide +kernel  -- R198
theorem test_rd_param : (after (exec .rdParam State.reset)).response = .okayData 0x00001040#32 := by
  decide +kernel  -- H2
theorem test_busErr_command_not_performed :  -- H15
    let t := after (step (converted.withEvents
      [.access { op := .write 0x04000000#32, size := .half, addr := 0x008 }]))
    (t.result, t.response) = (0x5A#512, .busErr) := by decide +kernel
theorem test_reset_event :  -- R260
    let t := after (step (converted.withEvents [.reset]))
    (t.cfgL, t.dlen, t.result, statusWord t) = (0#16, 0#7, 0#512, 0x00000000#32) := by decide +kernel
theorem test_placed_command_runs_first :  -- S1
    let t := after (step (State.reset.withFetchWord 32 0x010000FF))
    (t.cfgL, statusWord t) = (255#16, 0x00000001#32) := by decide +kernel

/-! ### The host syntax (R99, R100) -/

theorem test_assemble_line :  -- program P4
    Assembler.assembleLine ['S', 'E', 'T', 'N', ' ', '6', '5', ' ', ';', 'x'] =
      .ok [Assembler.cmdOp 0x02000041#32] := by rfl
theorem test_assemble_raw_unaligned :  -- the model's choice, log 15
    Assembler.assembleLine ['R', 'D', ' ', '[', '0', 'x', '0', '4', '2', ']'] =
      .ok [Assembler.rdOp 0x042 none] := by rfl
theorem test_assemble_lddig :  -- R100: padding in the last word
    Assembler.assemble (.lddig [0x11#8, 0x22#8, 0x33#8, 0x44#8, 0x55#8]) =
      .ok [Assembler.wrOp 0x040 0x11223344#32, Assembler.wrOp 0x044 0x55000000#32] := by rfl

/-! ### Witnesses: the hypotheses of each statement are met -/

/-- A read of the word at an offset. -/
def readAt (a : Nat) : HostEvent := .access { op := .read, size := .word, addr := a }

/-- A write to the word at an offset. -/
def writeAt (a : Nat) (v : Word) : HostEvent := .access { op := .write v, size := .word, addr := a }

theorem converted_inv : StateInv converted :=
  ⟨by decide +kernel, fun _ => by decide +kernel, by decide +kernel, by decide +kernel⟩

theorem witness_DecodeEncodeRoundTrip :
    Instr.wellFormed (.wrIgnored 0x080#12 5#32) = true ∧ Instr.wellFormed (.wrIgnored 0x03C#12 5#32) = true ∧
    Instr.wellFormed (.rdReserved 0x0C0#12) = true ∧ Instr.wellFormed (.rdReserved 0x03C#12) = true ∧
    Instr.wellFormed (.busErr (.write 5#32) .wider 0xFFC#12) = true ∧
    Instr.wellFormed (.illegalCmd 0x02000100#32) = true ∧ Instr.wellFormed (.setl 0#16) = true := by decide

theorem witness_IllegalWordsRaiseIllegalCmd :
    decodeCommand 0x05000000#32 = .illegal 0x05000000#32 ∧ decodeCommand 0x00000001#32 = .illegal 0x00000001#32 ∧
    decodeCommand 0x01010000#32 = .illegal 0x01010000#32 ∧ decodeCommand 0x02000100#32 = .illegal 0x02000100#32 ∧
    decodeCommand 0x03000001#32 = .illegal 0x03000001#32 ∧ decodeCommand 0x04800000#32 = .illegal 0x04800000#32 := by
  decide

/-- Clauses of R97 at the edges of their ranges: no offset falls under two. -/
theorem witness_AccessDecodedByDescriptor :
    decodeAccess { op := .write 9#32, size := .word, addr := 0x1008 } = .wrCmd 9#32 ∧
    decodeAccess { op := .write 9#32, size := .word, addr := 0x040 } = .wrDigest 0 9#32 ∧
    decodeAccess { op := .write 9#32, size := .word, addr := 0x07C } = .wrDigest 15 9#32 ∧
    decodeAccess { op := .write 9#32, size := .word, addr := 0x080 } = .wrIgnored 0x080#12 9#32 ∧
    decodeAccess { op := .write 9#32, size := .word, addr := 0x03C } = .wrIgnored 0x03C#12 9#32 ∧
    decodeAccess { op := .read, size := .word, addr := 0x07C } = .rdDigest 15 ∧
    decodeAccess { op := .read, size := .word, addr := 0x080 } = .rdResult 0 ∧
    decodeAccess { op := .read, size := .word, addr := 0x0BC } = .rdResult 15 ∧
    decodeAccess { op := .read, size := .word, addr := 0x0C0 } = .rdReserved 0x0C0#12 ∧
    decodeAccess { op := .read, size := .word, addr := 0x01C } = .rdReserved 0x01C#12 ∧
    decodeAccess { op := .read, size := .word, addr := 0x003 } = .busErr .read .word 0x003#12 ∧
    (0xFFC < 4096 ∧ 0xFFC % 4 = 0) := by decide

theorem witness_StepRunsPresentedAccess :
    (converted.withEvents [readAt 0, .reset]).pending = readAt 0 :: [.reset] := rfl

theorem witness_StepRunsPlacedTableWord :
    decodeTableWord 32 0x04000000 = some .clear ∧ decodeTableWord 16 0x0018 = some .rdShamt := by decide

theorem witness_EveryAccessCompletes : (converted.withEvents [.reset]).pending = .reset :: [] := rfl

theorem witness_ResetEventGivesResetValues :
    (converted.withEvents [.reset, readAt 0]).pending = .reset :: [readAt 0] := rfl

theorem witness_SetlConfiguresLegalLength : (1#16 : BitVec 16) ≠ 0#16 := by decide

theorem witness_NoConversionAfterZeroLength :
    let s := State.reset.withEvents [writeAt 0x008 0x01000000#32, writeAt 0x008 0x03000000#32]
    s.cfgValid = false ∧
    (∀ e ∈ s.pending, ∀ l : BitVec 16, l ≠ 0#16 → commandOf e ≠ some (.setl l)) ∧
    ∃ t, runSteps 2 s = .next t ∧ t.errcode = 4#4 := by
  refine ⟨rfl, ?_, _, rfl, by decide +kernel⟩
  intro e he l hl
  have h : e = writeAt 0x008 0x01000000#32 ∨ e = writeAt 0x008 0x03000000#32 := by
    simpa [State.withEvents] using he
  have h0 : commandOf (writeAt 0x008 0x01000000#32) = some (.setl 0#16) := by decide
  have h1 : commandOf (writeAt 0x008 0x03000000#32) = some .convert := by decide
  rcases h with rfl | rfl
  · rw [h0]; simpa using hl.symm
  · rw [h1]; simp

theorem witness_SetnConfiguresLegalLength : (64#8 : BitVec 8).toNat ≤ 64 := by decide
theorem witness_SetnRejectsLongDigest : 64 < (65#8 : BitVec 8).toNat := by decide

theorem witness_ConvertPassesShortDigestThrough :  -- V1: L = n
    let s := loaded 8 1 0xB5#8 0#8 0#8
    s.cfgValid = true ∧ s.dlen.toNat ≤ 64 ∧ 8 * s.dlen.toNat ≤ s.cfgL.toNat := by decide +kernel

theorem witness_ConvertShiftsLongDigest :  -- V15: the longest shift
    let s := loaded 1 64 0xB5#8 0#8 0#8
    s.cfgValid = true ∧ s.dlen.toNat ≤ 64 ∧ s.cfgL.toNat < 8 * s.dlen.toNat := by decide +kernel

theorem witness_TruncationBitByBit :
    let s := loaded 9 2 0xB5#8 0x01#8 0#8
    s.cfgValid = true ∧ s.dlen.toNat ≤ 64 ∧ s.cfgL.toNat < 8 * s.dlen.toNat ∧
    -- RESULT[0] is bit 7 of DIGEST[1], RESULT[8] is bit 7 of DIGEST[0] (n - L = 7)
    (0 < s.cfgL.toNat ∧ 7 = 8 * s.dlen.toNat - s.cfgL.toNat + 0 ∧ (1 : Fin 64).val = s.dlen.toNat - 1 - 7 / 8) ∧
    (8 < s.cfgL.toNat ∧ 15 = 8 * s.dlen.toNat - s.cfgL.toNat + 8 ∧ (0 : Fin 64).val = s.dlen.toNat - 1 - 15 / 8) ∧
    s.cfgL.toNat ≤ 9 := by decide +kernel

theorem witness_ConvertResultIsBounded :
    let s := loaded 3 1 0xB5#8 0#8 0#8
    s.cfgValid = true ∧ s.dlen.toNat ≤ 64 ∧ min (8 * s.dlen.toNat) s.cfgL.toNat ≤ 3 := by decide +kernel

theorem witness_ConvertReadsOnlyItsInputs :  -- V23
    let s := loaded 8 1 0xB5#8 1#8 2#8
    let s' := loaded 8 1 0xB5#8 9#8 9#8
    s.cfgValid = true ∧ s'.cfgValid = true ∧ s.cfgL = s'.cfgL ∧ s.dlen = s'.dlen ∧
    (∀ i : Fin 64, i.val < s.dlen.toNat → readDigestByte s i = readDigestByte s' i) ∧
    readDigestByte s 1 ≠ readDigestByte s' 1 := by decide +kernel

theorem witness_ExtremeShifts :  -- V19, V5, V20
    ((loaded 1 0 0#8 0#8 0#8).cfgValid = true ∧ (loaded 1 0 0#8 0#8 0#8).dlen = 0#7) ∧
    (let s := loaded 1 1 0xB5#8 0#8 0#8
     s.cfgValid = true ∧ s.cfgL = 1#16 ∧ 1 ≤ s.dlen.toNat ∧ s.dlen.toNat ≤ 64) ∧
    (let s := loaded 3 3 0#8 0#8 0#8
     s.cfgValid = true ∧ ∀ i : Fin 64, i.val < s.dlen.toNat → readDigestByte s i = 0#8) := by decide +kernel

theorem witness_ConvertTwiceIsOnce :
    converted.cfgValid = true ∧ State.reset.cfgValid = false ∧ (∃ t, exec .convert (loaded 7 1 0xB5#8 0#8 0#8) = .next t) ∧
    StateInv converted ∧ converted.resultValid = true :=
  ⟨rfl, rfl, ⟨_, rfl⟩, converted_inv, rfl⟩

/-- `converted`, after a rejected SETL 0. -/
def rejected : State :=
  { converted with cfgL := 0#16, cfgValid := false, resultValid := false, err := true, errcode := 2#4 }

theorem witness_UnconfiguredConvertRaisesNoConfig : rejected.cfgValid = false ∧ StateInv rejected :=
  ⟨rfl, by decide +kernel, (fun h => by cases h), by decide +kernel, by decide +kernel⟩

theorem witness_NopChangesNothing :  -- N1, N2
    (0x00000000#32 : Word).toNat / 2 ^ 24 = 0 ∧ (0x00000001#32 : Word).toNat / 2 ^ 24 = 0 ∧
    (0x00FFFFFF#32 : Word).toNat / 2 ^ 24 = 0 ∧ (0x00FFFFFF#32 : Word).toNat % 2 ^ 24 ≠ 0 := by decide

theorem witness_ClearZeroesDataAndStatus :
    State.reset.cfgValid = false ∧
    ∃ t, exec (instrOfCommand .clear) rejected = .next t ∧ rejected.err = true ∧ t.err = false :=
  ⟨rfl, _, rfl, rfl, rfl⟩

theorem witness_ResetStateValues :
    (∀ e ∈ [writeAt 0x008 0x03000000#32], ∀ l : BitVec 16, l ≠ 0#16 → commandOf e ≠ some (.setl l)) ∧
    ∃ t, runSteps 1 (State.reset.withEvents [writeAt 0x008 0x03000000#32]) = .next t ∧ t.errcode = 4#4 := by
  refine ⟨?_, _, rfl, by decide +kernel⟩
  have h1 : commandOf (writeAt 0x008 0x03000000#32) = some .convert := by decide
  simp [h1]

/-- The clauses of R193 at the last word of the buffer, and the bytes beside the first. -/
theorem witness_DigestWriteStoresFourBytes :
    (60 : Fin 64).val = 4 * (15 : Fin 16).val ∧ (61 : Fin 64).val = 4 * (15 : Fin 16).val + 1 ∧
    (62 : Fin 64).val = 4 * (15 : Fin 16).val + 2 ∧ (63 : Fin 64).val = 4 * (15 : Fin 16).val + 3 ∧
    (59 : Fin 64).val < 4 * (15 : Fin 16).val ∧ 4 * (0 : Fin 16).val + 3 < (4 : Fin 64).val := by decide

theorem witness_OtherWritesAreIgnored :  -- H10, H12, and the edges of the windows
    (∀ a ∈ [0x000, 0x00C, 0x03C, 0x080, 0x0C0, 0xFFC], a < 4096 ∧ a % 4 = 0 ∧ a ≠ 0x008 ∧
      ¬ (0x040 ≤ a ∧ a ≤ 0x07C)) ∧
    (converted.withEvents [writeAt 0x080 0xFFFFFFFF#32]).pending =
      .access { op := .write 0xFFFFFFFF#32, size := .word, addr := 0x080 } :: [] :=
  ⟨by decide, rfl⟩

theorem witness_DigestWindowIsBigEndian : 3 < 4 ∧ (63 : Fin 64).val = 4 * (15 : Fin 16).val + 3 := by decide

theorem witness_ResultWindowIsBigEndian : 31 < 32 := by decide

theorem witness_ReadsFollowRegisterMap :
    (∀ a ∈ [0x000, 0x018, 0x01C, 0x040, 0x07C, 0x080, 0x0BC, 0x0C0, 0xFFC], a < 4096 ∧ a % 4 = 0) ∧
    (converted.withEvents [readAt 0x0BC]).pending =
      .access { op := .read, size := .word, addr := 0x0BC } :: [] :=
  ⟨by decide, rfl⟩

theorem witness_RefusedAccessChangesNothing :  -- H13, H14
    (BusSize.byte ≠ .word ∨ 0x040 % 4 ≠ 0) ∧ (BusSize.word ≠ .word ∨ 0x042 % 4 ≠ 0) ∧
    (converted.withEvents [readAt 0x042]).pending =
      .access { op := .read, size := .word, addr := 0x042 } :: [] :=
  ⟨by decide, by decide, rfl⟩

theorem witness_ChecksRunInOrder :
    (∀ a ∈ [0x008, 0x1008], a % 4 = 0 ∧ a % 4096 = 0x008) ∧
    decodeCommand 0x02000141#32 = .illegal 0x02000141#32 ∧ decodeCommand 0x01000000#32 = .setl 0#16 ∧
    decodeCommand 0x02000041#32 = .setn 65#8 ∧ 64 < (65#8 : BitVec 8).toNat ∧
    decodeCommand 0x03000000#32 = .convert ∧ State.reset.cfgValid = false ∧
    errorOf (decodeAccess { op := .write 0x03000000#32, size := .word, addr := 8 }) converted = none ∧
    converted.err = false ∧ (converted.withEvents [readAt 0]).pending = readAt 0 :: [] := by
  refine ⟨?_, ?_, ?_, ?_, ?_, ?_, rfl, ?_, rfl, rfl⟩ <;> decide

/-- An event for every clause of the statements of who writes what: SETL, SETN at 64 and 65, CONVERT configured
and not, CLEAR, an illegal word, a DIGEST write, a reset, and one that is none of these. -/
theorem witness_writers :
    commandOf (writeAt 0x008 0x01000000#32) = some (.setl 0#16) ∧
    commandOf (writeAt 0x008 0x010000FF#32) = some (.setl 255#16) ∧
    commandOf (writeAt 0x008 0x02000040#32) = some (.setn 64#8) ∧
    commandOf (writeAt 0x008 0x02000041#32) = some (.setn 65#8) ∧
    commandOf (writeAt 0x008 0x03000000#32) = some .convert ∧
    commandOf (writeAt 0x008 0x04000000#32) = some .clear ∧
    commandOf (writeAt 0x008 0x05000000#32) = some (.illegal 0x05000000#32) ∧
    operationOf (writeAt 0x044 7#32) = some (.wrDigest 1 7#32) ∧
    operationOf (readAt 0x00C) = some .rdStatus ∧ commandOf (readAt 0x00C) = none ∧
    commandOf .reset = none ∧ converted.cfgValid = true ∧ State.reset.cfgValid = false ∧
    converted.dlen.toNat ≤ 64 ∧ (converted.withEvents [.reset]).pending = .reset :: [] := by
  refine ⟨?_, ?_, ?_, ?_, ?_, ?_, ?_, ?_, ?_, ?_, rfl, rfl, rfl, by decide +kernel, rfl⟩ <;> decide

theorem witness_DigestWriters :
    storesByte (.wrDigest 3 0#32) 11 = false ∧ storesByte (.wrDigest 3 0#32) 16 = false ∧
    storesByte (.wrDigest 3 0#32) 12 = true ∧ storesByte .clear 0 = true ∧ storesByte .convert 0 = false ∧
    performedCommand (.wrCmd 0x04000000#32) = some .clear := by decide

theorem witness_ErrorChangesOnlyItsOwn :
    commandError (.setl 0#16) converted = some .cfgZeroL ∧ commandError (.setn 65#8) converted = some .badDlen ∧
    commandError .convert State.reset = some .noConfig ∧
    commandError (.illegal 0x05000000#32) converted = some .illegalCmd := by decide +kernel

theorem witness_ErrorBitsSteerNothing : Instr.convert ≠ .rdStatus := by decide

theorem witness_RepeatedAccessIsIdempotent :
    (∃ t, exec (.wrCmd 0x03000000#32) (loaded 7 1 0xB5#8 0#8 0#8) = .next t) ∧
    (∃ t, exec (.wrDigest 0 5#32) converted = .next t) ∧
    ({ op := .read, size := .word, addr := 0x0BC } : Access).op = .read ∧
    (∀ a ∈ [0x000, 0x00C, 0x03C, 0x080, 0xFFC], a % 4 = 0 ∧ a % 4096 ≠ 0x008 ∧
      ¬ (0x040 ≤ a % 4096 ∧ a % 4096 ≤ 0x07C)) :=
  ⟨⟨_, rfl⟩, ⟨_, rfl⟩, rfl, by decide⟩

theorem witness_ReadSeesEveryEffectBefore :
    0x00C < 4096 ∧ 0x00C % 4 = 0 ∧
    (converted.withEvents [writeAt 0x008 0x04000000#32, readAt 0x00C]).pending =
      writeAt 0x008 0x04000000#32 :: .access { op := .read, size := .word, addr := 0x00C } :: [] ∧
    ∃ t, step (converted.withEvents [writeAt 0x008 0x04000000#32, readAt 0x00C]) = .next t :=
  ⟨by decide, by decide, rfl, _, rfl⟩

/-- The first two clauses at their edge: the CONVERT word at CMD, and what misses it by its word or its size. -/
theorem witness_TimingIndependentOfData :
    (∀ a ∈ [0x008, 0x1008], a % 4096 = 0x008) ∧
    ¬ (BusOp.write 0x03000001#32 = .write 0x03000000#32 ∧ BusSize.word = .word ∧ 0x008 % 4096 = 0x008) ∧
    ¬ (BusOp.write 0x03000000#32 = .write 0x03000000#32 ∧ BusSize.half = .word ∧ 0x008 % 4096 = 0x008) ∧
    0x040 % 4096 ≠ 0x008 ∧
    performedCommand (decodeAccess { op := .write 0x03000000#32, size := .word, addr := 0x008 }) = some .convert ∧
    performedCommand (decodeAccess { op := .write 0x03000000#32, size := .word, addr := 0x1008 }) = some .convert ∧
    (BusSize.wider ≠ .word ∨ 0x008 % 4 ≠ 0) := by decide

theorem witness_StepKeepsInvariants :
    StateInv (converted.withEvents [writeAt 0x008 0x010000FF#32]) ∧
    ∃ t, step (converted.withEvents [writeAt 0x008 0x010000FF#32]) = .next t :=
  ⟨⟨converted_inv.1, converted_inv.2, converted_inv.3, converted_inv.4⟩, _, rfl⟩

theorem witness_InvariantsHoldBetweenSteps :
    ∃ t, runSteps 2 (State.reset.withEvents [writeAt 0x008 0x010000FF#32, writeAt 0x008 0x03000000#32]) =
      .next t ∧ t.resultValid = true :=
  ⟨_, rfl, by decide +kernel⟩

theorem witness_ErrorCodeAgreesWithFlag :
    ErrInv (rejected.withEvents [writeAt 0x008 0x05000000#32]) ∧
    ∃ t, step (rejected.withEvents [writeAt 0x008 0x05000000#32]) = .next t ∧ t.errcode = 1#4 :=
  ⟨⟨by decide +kernel, by decide +kernel⟩, _, rfl, by decide +kernel⟩

theorem witness_HostReadsCurrentConversion :
    StateInv converted ∧ (statusWord converted).getLsbD 1 = true :=
  ⟨converted_inv, by decide +kernel⟩

theorem witness_StatementsAssembleToTheirCommands :
    (65535 ≤ 65535) ∧ (65535 < 65536) ∧ (255 ≤ 255) ∧ (255 < 256) := by decide

theorem witness_LddigLoadsTheDigest :
    ([0x11#8, 0x22#8, 0x33#8, 0x44#8, 0x55#8] : List Byte).length ≤ 64 ∧
    ([0x11#8, 0x22#8, 0x33#8, 0x44#8, 0x55#8] : List Byte)[(4 : Fin 64).val]? = some 0x55#8 ∧
    (5 ≤ (7 : Fin 64).val ∧ (7 : Fin 64).val < 4 * 2) ∧ 4 * 2 ≤ (8 : Fin 64).val ∧
    ([0x11#8] : List Byte) ≠ [] ∧ ([] : List Byte).length ≤ 64 := by decide

theorem witness_ConversionSequenceConverts : 1 ≤ 65535 ∧ 65535 ≤ 65535 ∧ (List.replicate 64 0xA5#8).length ≤ 64 := by
  decide

theorem witness_TableWordLayout :
    (16 ≠ 32 ∧ 0xFFF < 4096 ∧ 7 < 8) ∧
    BusSize.wider = (if 7 = 0 then .word else if 7 = 1 then .byte else if 7 = 2 then .half else .wider) ∧
    decodeTableWord 48 0x53008 = some (.busErr (.write 5#32) .byte 0x008#12) ∧
    decodeTableWord 48 0x51040 = some (.wrDigest 0 5#32) := by decide

end Sys2Proof.Tests
end

section
/-! PROOFS. The notation of the scope chapter: the big-endian value of a byte sequence (R15). -/

namespace Sys2Proof.Machine

/-- The closed form of the recursion: the head has index 0 and so the weight `2 ^ (8 * rest.length)`, and every
byte of the tail keeps its weight, for its index and the length both grow by one (R15). -/
theorem beValue_eq_sum (d : List Byte) :
    beValue d = ∑ i : Fin d.length, (d.get i).toNat * 2 ^ (8 * (d.length - 1 - i.val)) := by
  induction d with
  | nil => rfl
  | cons b rest ih =>
    have hweight (i : Fin rest.length) :
        (b :: rest).length - 1 - i.succ.val = rest.length - 1 - i.val := by
      simp only [List.length_cons, Fin.val_succ]
      omega
    calc beValue (b :: rest)
        = b.toNat * 2 ^ (8 * rest.length) +
            ∑ i : Fin rest.length, (rest.get i).toNat * 2 ^ (8 * (rest.length - 1 - i.val)) := by
          rw [beValue, ih]
      _ = ∑ i : Fin (rest.length + 1),
            ((b :: rest).get i).toNat * 2 ^ (8 * ((b :: rest).length - 1 - i.val)) := by
          simp only [Fin.sum_univ_succ, hweight]
          rfl

/-- Settles O55: the empty sum is the first equation of `beValue`, and `beValue_eq_sum` is the rest. -/
theorem bigEndianValueIsTheSum : Obligations.BigEndianValueIsTheSum :=
  ⟨rfl, beValue_eq_sum⟩

end Sys2Proof.Machine
end

section
/-! PROOFS. One step, said once: every event is taken by one step, and `EventEffect` lists what that step can do.
The writers of each piece of state (10_state.md) and the invariants are read off this list. -/

namespace Sys2Proof.Machine

/-! ### Every operation answers a next state -/

theorem performCommand_total (c : Command) (s : State) : ∃ t, performCommand c s = .next t := by
  cases c with
  | setl l => simp only [performCommand, execSetl]; split <;> exact ⟨_, rfl⟩
  | setn nb => simp only [performCommand, execSetn]; split <;> exact ⟨_, rfl⟩
  | convert => simp only [performCommand, execConvert]; split <;> exact ⟨_, rfl⟩
  | _ => exact ⟨_, rfl⟩

/-- A write to CMD answers what its command does, and OKAY (R190). -/
theorem exec_wrCmd {w : Word} {s u : State} (h : performCommand (decodeCommand w) s = .next u) :
    exec (.wrCmd w) s = .next (respond .okay u) := by
  simp only [exec, execWrCmd, h, completeWrite]

theorem exec_total (i : Instr) (s : State) : ∃ t, exec i s = .next t := by
  cases i with
  | nop => exact performCommand_total .nop s
  | setl l => exact performCommand_total (.setl l) s
  | setn nb => exact performCommand_total (.setn nb) s
  | convert => exact performCommand_total .convert s
  | clear => exact performCommand_total .clear s
  | illegalCmd w => exact performCommand_total (.illegal w) s
  | wrCmd w =>
    obtain ⟨u, hu⟩ := performCommand_total (decodeCommand w) s
    exact ⟨_, exec_wrCmd hu⟩
  | _ => exact ⟨_, rfl⟩

/-! ### The effect of a command -/

/-- The nine effects of `performCommand_cases`, each by a name that a case split can use: `CommandEffect s c t` says
that the command `c` takes the state `s` to `t`. -/
inductive CommandEffect (s : State) : Command → State → Prop where
  | nop : CommandEffect s .nop s
  | setl {l : BitVec 16} (hl : l ≠ 0#16) :
      CommandEffect s (.setl l) { s with cfgL := l, cfgValid := true, resultValid := false }
  | setlZero : CommandEffect s (.setl 0#16)
      (raiseError .cfgZeroL { s with cfgL := 0#16, cfgValid := false, resultValid := false })
  | setn {nb : BitVec 8} (hnb : nb.toNat ≤ 64) :
      CommandEffect s (.setn nb) { s with dlen := nb.setWidth 7, resultValid := false }
  | setnLong {nb : BitVec 8} (hnb : 64 < nb.toNat) : CommandEffect s (.setn nb) (raiseError .badDlen s)
  | convert (hv : s.cfgValid = true) : CommandEffect s .convert { s with
      result := convertResult s, shamt := convertShamt s, shifted := convertShifted s, resultValid := true }
  | convertUnconfigured (hv : s.cfgValid = false) : CommandEffect s .convert (raiseError .noConfig s)
  | clear : CommandEffect s .clear { acknowledgeErrors (zeroDigest s) with
      result := 0#512, shamt := 0#10, resultValid := false, shifted := false }
  | illegal (w : Word) : CommandEffect s (.illegal w) (raiseError .illegalCmd s)

theorem commandEffect_of_performCommand {c : Command} {s t : State} (h : performCommand c s = .next t) :
    CommandEffect s c t := by
  rcases performCommand_cases h with ⟨rfl, rfl⟩ | ⟨l, rfl, hl, rfl⟩ | ⟨rfl, rfl⟩ | ⟨nb, rfl, hnb, rfl⟩ |
    ⟨nb, rfl, hnb, rfl⟩ | ⟨rfl, hv, rfl⟩ | ⟨rfl, hv, rfl⟩ | ⟨rfl, rfl⟩ | ⟨w, rfl, rfl⟩
  · exact .nop
  · exact .setl hl
  · exact .setlZero
  · exact .setn hnb
  · exact .setnLong hnb
  · exact .convert hv
  · exact .convertUnconfigured hv
  · exact .clear
  · exact .illegal w

theorem CommandEffect.pending {c : Command} {s t : State} (h : CommandEffect s c t) :
    t.pending = s.pending := by
  cases h <;> rfl

/-! ### The effect of an event -/

@[simp] theorem commandOf_reset : commandOf .reset = none := rfl
@[simp] theorem operationOf_reset : operationOf .reset = none := rfl
@[simp] theorem operationOf_access (x : Access) : operationOf (.access x) = some (decodeAccess x) := rfl
@[simp] theorem commandOf_access (x : Access) : commandOf (.access x) = performedCommand (decodeAccess x) := rfl

/-- What an event can do to the state that has accepted it: a reset is taken, or an access performs a command,
writes a DIGEST word, or is only answered. -/
inductive EventEffect (s : State) : HostEvent → State → Prop where
  | reset : EventEffect s .reset (hardReset s)
  | command {x : Access} {c : Command} {u : State} (r : BusResp)
      (hcmd : performedCommand (decodeAccess x) = some c)
      (hop : ∀ k v, decodeAccess x ≠ .wrDigest k v)
      (hu : CommandEffect s c u) : EventEffect s (.access x) (respond r u)
  | digestWrite {x : Access} {k : Fin 16} {v : Word} (hop : decodeAccess x = .wrDigest k v) :
      EventEffect s (.access x) (respond .okay { writeDigestWord k v s with resultValid := false })
  | answer {x : Access} (r : BusResp)
      (hcmd : performedCommand (decodeAccess x) = none)
      (hop : ∀ k v, decodeAccess x ≠ .wrDigest k v) : EventEffect s (.access x) (respond r s)

theorem eventEffect_of_exec {x : Access} {s t : State} (h : exec (decodeAccess x) s = .next t) :
    EventEffect s (.access x) t := by
  rcases exec_cases h with ⟨c, u, hcmd, hu, ht⟩ | ⟨k, v, hop, rfl⟩ | ⟨hcmd, hop, r, rfl⟩
  · have hop : ∀ k v, decodeAccess x ≠ .wrDigest k v := fun k v hx => by simp [hx, performedCommand] at hcmd
    rcases ht with rfl | rfl
    · exact .command t.response hcmd hop (commandEffect_of_performCommand hu)
    · exact .command .okay hcmd hop (commandEffect_of_performCommand hu)
  · exact .digestWrite hop
  · exact .answer r hcmd hop

/-- A presented event is taken whole by one step, which has one of the listed effects (R20, R66). -/
theorem step_effect {s : State} {e : HostEvent} {rest : List HostEvent} (h : s.pending = e :: rest) :
    ∃ t, step s = .next t ∧ EventEffect { s with pending := rest } e t := by
  cases e with
  | reset => exact ⟨_, step_reset h, .reset⟩
  | access x =>
    obtain ⟨t, ht⟩ := exec_total (decodeAccess x) { s with pending := rest }
    exact ⟨t, (step_access h).trans ht, eventEffect_of_exec ht⟩

/-- A step keeps the state, or it takes the next event. -/
theorem step_effect_cases {s t : State} (h : step s = .next t) :
    (s.pending = [] ∧ t = s) ∨
    ∃ e rest, s.pending = e :: rest ∧ EventEffect { s with pending := rest } e t := by
  rcases step_cases h with hidle | ⟨rest, hp, rfl⟩ | ⟨x, rest, hp, hx⟩
  · exact .inl hidle
  · exact .inr ⟨_, rest, hp, .reset⟩
  · exact .inr ⟨_, rest, hp, eventEffect_of_exec hx⟩

/-- No event changes which events come after it (R66; log 1). -/
theorem EventEffect.pending {s t : State} {e : HostEvent} (h : EventEffect s e t) : t.pending = s.pending := by
  cases h with
  | reset => rfl
  | command r _ _ hu => exact hu.pending
  | digestWrite _ => rfl
  | answer r _ _ => rfl

/-- An invariant of the D2I's own state, so one that reads neither `pending` nor `response`, is kept by every step
if a reset establishes it and every command and DIGEST write keeps it. -/
theorem step_keeps {P : State → Prop}
    (hpending : ∀ s rest, P s → P { s with pending := rest })
    (hrespond : ∀ r s, P s → P (respond r s))
    (hreset : ∀ s, P (hardReset s))
    (hcommand : ∀ c s t, P s → CommandEffect s c t → P t)
    (hdigest : ∀ k v s, P s → P { writeDigestWord k v s with resultValid := false })
    (s t : State) (hs : P s) (h : step s = .next t) : P t := by
  rcases step_effect_cases h with ⟨-, rfl⟩ | ⟨e, rest, -, heff⟩
  · exact hs
  · have hs' := hpending s rest hs
    cases heff with
    | reset => exact hreset _
    | command r _ _ hu => exact hrespond r _ (hcommand _ _ _ hs' hu)
    | digestWrite _ => exact hrespond .okay _ (hdigest _ _ _ hs')
    | answer r _ _ => exact hrespond r _ hs'

end Sys2Proof.Machine
end

section
/-! PROOFS. The invariants of 10_state.md: R41 to R44 (`StateInv`), and the agreement of ERR and ERRCODE
(`ErrInv`). -/

namespace Sys2Proof.Machine

/-! ### R41 to R44 -/

/-- The accepted lengths fit the 7 bits of DLEN (R44, R126). -/
theorem toNat_setWidth_seven {nb : BitVec 8} (h : nb.toNat ≤ 64) : (nb.setWidth 7).toNat = nb.toNat := by
  rw [BitVec.toNat_setWidth, Nat.mod_eq_of_lt (by omega)]

/-- A CONVERT sets SHIFTED exactly when it shifts (R43): both say that `n > L`. -/
theorem convertShifted_iff_convertShamt_ne_zero {s : State} (h : s.dlen.toNat ≤ 64) :
    convertShifted s = true ↔ convertShamt s ≠ 0#10 := by
  rw [convertShifted_iff, ne_eq, ← BitVec.toNat_inj, convertShamt_toNat h, BitVec.toNat_ofNat]
  omega

theorem StateInv.withPending {s : State} (h : StateInv s) (rest : List HostEvent) :
    StateInv { s with pending := rest } :=
  ⟨h.cfg_valid_iff, h.valid_result, h.shifted_iff, h.dlen_le⟩

theorem StateInv.respond {s : State} (h : StateInv s) (r : BusResp) : StateInv (respond r s) :=
  ⟨h.cfg_valid_iff, h.valid_result, h.shifted_iff, h.dlen_le⟩

/-- An error touches none of the fields the invariants speak of (R224). -/
theorem StateInv.raiseError {s : State} (h : StateInv s) (c : ErrCode) : StateInv (raiseError c s) :=
  ⟨h.cfg_valid_iff, h.valid_result, h.shifted_iff, h.dlen_le⟩

theorem hardReset_stateInv (s : State) : StateInv (hardReset s) :=
  ⟨by simp, by simp, by simp, by simp⟩

theorem reset_stateInv : StateInv State.reset :=
  ⟨by simp [State.reset], by simp [State.reset], by simp [State.reset], by simp [State.reset]⟩

/-- A DIGEST write makes the held result stale and says so (R193). -/
theorem StateInv.writeDigestWord {s : State} (h : StateInv s) (k : Fin 16) (v : Word) :
    StateInv { writeDigestWord k v s with resultValid := false } :=
  ⟨h.cfg_valid_iff, nofun, h.shifted_iff, h.dlen_le⟩

/-- Every change of an input of the conversion clears RESULT_VALID, and CONVERT, which sets it, has just computed the
result from the inputs it leaves in place. -/
theorem StateInv.command {c : Command} {s t : State} (h : StateInv s) (hc : CommandEffect s c t) : StateInv t := by
  cases hc with
  | nop => exact h
  | setl hl => exact ⟨by simp [hl], nofun, h.shifted_iff, h.dlen_le⟩
  | setlZero => exact ⟨by simp, nofun, h.shifted_iff, h.dlen_le⟩
  | setn hnb => exact ⟨h.cfg_valid_iff, nofun, h.shifted_iff, (toNat_setWidth_seven hnb).trans_le hnb⟩
  | setnLong _ => exact h.raiseError _
  | convert hv =>
    exact ⟨h.cfg_valid_iff, fun _ => ⟨hv, rfl, rfl, rfl⟩,
      convertShifted_iff_convertShamt_ne_zero h.dlen_le, h.dlen_le⟩
  | convertUnconfigured _ => exact h.raiseError _
  | clear => exact ⟨h.cfg_valid_iff, nofun, by simp, h.dlen_le⟩
  | illegal w => exact h.raiseError _

/-- Settles O51, from what commands, DIGEST writes, answers and a reset do to the invariants. -/
theorem stepKeepsInvariants : Obligations.StepKeepsInvariants :=
  step_keeps (fun _ rest h => h.withPending rest) (fun r _ h => h.respond r) hardReset_stateInv
    (fun _ _ _ h hc => h.command hc) (fun k v _ h => h.writeDigestWord k v)

end Sys2Proof.Machine
end

section
/-! PROOFS. Invariants along runs (R41 to R44, R48), and the agreement of ERR and ERRCODE. -/

namespace Sys2Proof.Machine

/-! ### R41 to R44 along runs from reset -/

/-- R42 in the numbers of the spec. -/
theorem StateInv.valid_result_toNat {s : State} (h : StateInv s) (hv : s.resultValid = true) :
    s.result.toNat = beValue (s.digest.toList.take s.dlen.toNat) / 2 ^ (8 * s.dlen.toNat - s.cfgL.toNat) ∧
      s.shamt.toNat = 8 * s.dlen.toNat - s.cfgL.toNat ∧
      (s.shifted = true ↔ s.cfgL.toNat < 8 * s.dlen.toNat) := by
  obtain ⟨-, hresult, hshamt, hshifted⟩ := h.valid_result hv
  rw [hresult, hshamt, hshifted]
  exact ⟨convertResult_toNat h.dlen_le, convertShamt_toNat h.dlen_le, convertShifted_iff s⟩

/-- Settles O52: the reset state meets the invariants with any events to come, and every step keeps them. -/
theorem invariantsHoldBetweenSteps : Obligations.InvariantsHoldBetweenSteps := by
  intro es k t hrun
  have h : StateInv t := runSteps_induction stepKeepsInvariants k (reset_stateInv.withPending es) hrun
  exact ⟨h.cfg_valid_iff, fun hv => ⟨(h.valid_result hv).1, h.valid_result_toNat hv⟩, h.shifted_iff,
    h.dlen_le⟩

/-! ### ERR and ERRCODE -/

theorem ErrInv.withErrCode {c : ErrCode} (s : State) (hc : c ≠ .none) : ErrInv (raiseError c s) := by
  cases c with
  | none => exact absurd rfl hc
  | _ => exact ⟨by simp [errCodeBits], by simp [errCodeBits]⟩

theorem ErrInv.command {c : Command} {s t : State} (h : ErrInv s) (hc : CommandEffect s c t) : ErrInv t := by
  cases hc with
  | nop => exact h
  | setl _ => exact ⟨h.err_iff, h.errcode_le⟩
  | setlZero => exact .withErrCode _ nofun
  | setn _ => exact ⟨h.err_iff, h.errcode_le⟩
  | setnLong _ => exact .withErrCode _ nofun
  | convert _ => exact ⟨h.err_iff, h.errcode_le⟩
  | convertUnconfigured _ => exact .withErrCode _ nofun
  | clear => exact ⟨by simp [errCodeBits], by simp [errCodeBits]⟩
  | illegal w => exact .withErrCode _ nofun

/-- Settles O53: what raises an error writes ERR with a code of R220, and CLEAR and reset clear both. -/
theorem errorCodeAgreesWithFlag : Obligations.ErrorCodeAgreesWithFlag :=
  ⟨⟨by simp [State.reset], by simp [State.reset]⟩,
    step_keeps (fun _ _ h => ⟨h.err_iff, h.errcode_le⟩) (fun _ _ h => ⟨h.err_iff, h.errcode_le⟩)
      (fun _ => ⟨by simp, by simp⟩) (fun _ _ _ h hc => h.command hc)
      (fun _ _ _ h => ⟨h.err_iff, h.errcode_le⟩)⟩

end Sys2Proof.Machine
end

section
/-! PROOFS. Who writes what (10_state.md R29 to R37), each read off the effects of an event. -/

namespace Sys2Proof.Machine

/-- R29 for one event: SETL and reset write the configuration. -/
theorem EventEffect.config {s t : State} {e : HostEvent} (h : EventEffect s e t) :
    (∀ l : BitVec 16, commandOf e = some (.setl l) → t.cfgL = l ∧ (t.cfgValid = true ↔ l ≠ 0#16)) ∧
    (e = .reset → t.cfgL = 0#16 ∧ t.cfgValid = false) ∧
    ((∀ l : BitVec 16, commandOf e ≠ some (.setl l)) → e ≠ .reset →
      t.cfgL = s.cfgL ∧ t.cfgValid = s.cfgValid) := by
  cases h with
  | reset => simp
  | command r hcmd _ hu =>
    cases hu with
    | setl hl => simp [hcmd, hl]
    | setlZero => simp [hcmd]
    | _ => simp [hcmd]
  | digestWrite hop => simp [hop, performedCommand]
  | answer r hcmd _ => simp [hcmd]

/-- Settles O39, by `EventEffect.config` for the event of the step. -/
theorem configurationWriters : Obligations.ConfigurationWriters := by
  intro s e rest hp
  obtain ⟨t, hstep, heff⟩ := step_effect hp
  exact ⟨t, hstep, heff.config⟩

/-- Settles O40: of the commands, SETN alone touches DLEN, and only when the length is accepted. -/
theorem dlenWriters : Obligations.DlenWriters := by
  intro s e rest hp
  obtain ⟨t, hstep, heff⟩ := step_effect hp
  refine ⟨t, hstep, ?_⟩
  cases heff with
  | reset => simp
  | command r hcmd _ hu =>
    cases hu with
    | setn hnb => simp [hcmd, toNat_setWidth_seven hnb, hnb.not_gt]
    | setnLong hnb => simp [hcmd, hnb]
    | _ => simp [hcmd]
  | digestWrite hop => simp [hop, performedCommand]
  | answer r hcmd _ => simp [hcmd]

/-- Settles O41: the events that change an input of the conversion clear RESULT_VALID, and a CONVERT that runs sets
it. -/
theorem resultValidWriters : Obligations.ResultValidWriters := by
  intro s e rest hp
  obtain ⟨t, hstep, heff⟩ := step_effect hp
  refine ⟨t, hstep, ?_⟩
  cases heff with
  | reset => simp
  | command r hcmd hop hu =>
    cases hu with
    | setn hnb => simp [hcmd, hnb.not_gt]
    | setnLong hnb => simp [hcmd, hop, hnb]
    | convert hv => simp [hcmd, hop, show s.cfgValid = true from hv]
    | convertUnconfigured hv => simp [hcmd, hop, show s.cfgValid = false from hv]
    | _ => simp [hcmd, hop]
  | digestWrite hop => simp [hop, performedCommand]
  | answer r hcmd hop => simp [hcmd, hop]

/-- Settles O42: of the commands, a CONVERT that runs writes the values of R140 and CLEAR writes 0. -/
theorem conversionResultWriters : Obligations.ConversionResultWriters := by
  intro s e rest hp hlen
  obtain ⟨t, hstep, heff⟩ := step_effect hp
  refine ⟨t, hstep, ?_⟩
  cases heff with
  | reset => exact ⟨nofun, fun _ => ⟨rfl, rfl, rfl⟩, fun _ _ h => absurd rfl h⟩
  | command r hcmd _ hu =>
    cases hu with
    | convert hv =>
      refine ⟨fun _ _ => ⟨convertShifted_iff _, convertShamt_toNat hlen, convertResult_toNat hlen⟩,
        by simp [hcmd], ?_⟩
      intro hfailed
      exact absurd (hfailed hcmd) (Bool.ne_false_iff.2 hv)
    | convertUnconfigured hv => simp [hcmd, show s.cfgValid = false from hv]
    | clear => exact ⟨fun h => by simp [hcmd] at h, fun _ => ⟨rfl, rfl, rfl⟩, fun _ h => absurd hcmd h⟩
    | _ => simp [hcmd]
  | digestWrite hop => simp [hop, performedCommand]
  | answer r hcmd _ => simp [hcmd]

/-- Settles O43: the four commands that raise an error write both, with the code of their cause. -/
theorem errorBitsWriters : Obligations.ErrorBitsWriters := by
  intro s e rest hp
  obtain ⟨t, hstep, heff⟩ := step_effect hp
  refine ⟨t, hstep, ?_⟩
  cases heff with
  | reset => simp
  | command r hcmd _ hu =>
    cases hu with
    | setl hl => simp [hcmd, hl]
    | setn hnb => simp [hcmd, hnb.not_gt]
    | setnLong hnb => simp [hcmd, hnb.not_ge, errCodeBits]
    | convert hv => simp [hcmd, show s.cfgValid = true from hv]
    | convertUnconfigured hv => simp [hcmd, show s.cfgValid = false from hv, errCodeBits]
    | _ => simp [hcmd, errCodeBits]
  | digestWrite hop => simp [hop, performedCommand]
  | answer r hcmd _ => simp [hcmd]

/-- CLEAR zeroes DIGEST, and no other command touches it (R37, R172). -/
theorem CommandEffect.digest {c : Command} {s t : State} (h : CommandEffect s c t) :
    t.digest = if c = .clear then Vector.replicate 64 0#8 else s.digest := by
  cases h <;> rfl

/-- The bytes an operation stores to, when it performs a command: all if the command is CLEAR, none otherwise. -/
theorem storesByte_of_performedCommand {i : Instr} {c : Command} (h : performedCommand i = some c) (b : Fin 64) :
    storesByte i b = (some c == some Command.clear) := by
  rw [← h]
  cases i with
  | wrDigest k v => cases h
  | _ => rfl

/-- R37 for one operation: every byte it does not store to reads as before. -/
theorem readDigestByte_of_exec {i : Instr} {s t : State} (h : exec i s = .next t) {b : Fin 64}
    (hb : storesByte i b = false) : readDigestByte t b = readDigestByte s b := by
  rcases exec_cases h with ⟨c, u, hcmd, hu, ht⟩ | ⟨k, v, rfl, rfl⟩ | ⟨-, -, r, rfl⟩
  · have hc : c ≠ .clear := by simpa [storesByte_of_performedCommand hcmd] using hb
    have hdigest : u.digest = s.digest := by simpa [hc] using (commandEffect_of_performCommand hu).digest
    rcases ht with rfl | rfl <;> simp [readDigestByte, hdigest]
  · have hk : b.val / 4 ≠ k.val := by simpa [storesByte] using hb
    exact (readDigestByte_writeDigestWord k v s b).trans (if_neg hk)
  · rfl

/-- R172 for one operation: every byte reads 0 once CLEAR is performed. -/
theorem readDigestByte_of_exec_clear {i : Instr} {s t : State} (h : exec i s = .next t)
    (hclear : performedCommand i = some .clear) (b : Fin 64) : readDigestByte t b = 0#8 := by
  rcases exec_cases h with ⟨c, u, hcmd, hu, ht⟩ | ⟨k, v, rfl, -⟩ | ⟨hnone, -⟩
  · obtain rfl : c = .clear := by simpa [hclear] using hcmd.symm
    have hdigest : u.digest = Vector.replicate 64 0#8 := by simpa using (commandEffect_of_performCommand hu).digest
    rcases ht with rfl | rfl <;> simp [readDigestByte, hdigest]
  · cases hclear
  · simp [hnone] at hclear

/-- R37 for one event. -/
theorem EventEffect.digest {s t : State} {e : HostEvent} (h : EventEffect s e t)
    (hwrite : ∀ k v, operationOf e ≠ some (.wrDigest k v)) (hclear : commandOf e ≠ some .clear)
    (hreset : e ≠ .reset) :
    t.digest = s.digest := by
  cases h with
  | reset => exact absurd rfl hreset
  | command r hcmd _ hu =>
    rw [commandOf_access, hcmd, ne_eq, Option.some.injEq] at hclear
    simp [hu.digest, hclear]
  | digestWrite hop => simp [hop] at hwrite
  | answer r _ _ => rfl

/-- Settles O44: the stored bytes are those of `storesByte` for an operation, and none for any other event. -/
theorem digestWriters : Obligations.DigestWriters := by
  refine ⟨fun i s => ?_, fun s e rest hp hwrite hclear hreset => ?_⟩
  · obtain ⟨t, ht⟩ := exec_total i s
    exact ⟨t, ht, fun _ => readDigestByte_of_exec ht, readDigestByte_of_exec_clear ht⟩
  · obtain ⟨t, hstep, heff⟩ := step_effect hp
    exact ⟨t, hstep, heff.digest hwrite hclear hreset⟩

end Sys2Proof.Machine
end

section
/-! PROOFS. ERR and ERRCODE steer nothing (10_state.md R47). -/

namespace Sys2Proof.Machine

/-- The state with other values of ERR and ERRCODE. -/
def withErrorBits (e : Bool) (c : BitVec 4) (s : State) : State :=
  { s with err := e, errcode := c }

/-- The two outcomes are next states that agree on everything but ERR and ERRCODE. -/
def AgreeButErrors (o o' : Outcome) : Prop :=
  ∃ t t', o = .next t ∧ o' = .next t' ∧ withErrorBits t.err t.errcode t' = t

/-- No guard and no value of a command reads the error bits. -/
theorem performCommand_agreeButErrors (cmd : Command) (s : State) (e : Bool) (c : BitVec 4) :
    AgreeButErrors (performCommand cmd s) (performCommand cmd (withErrorBits e c s)) := by
  cases cmd with
  | setl l =>
    simp only [performCommand, execSetl]
    split <;> exact ⟨_, _, rfl, rfl, rfl⟩
  | setn nb =>
    simp only [performCommand, execSetn]
    split <;> exact ⟨_, _, rfl, rfl, rfl⟩
  | convert =>
    simp only [performCommand, execConvert, show (withErrorBits e c s).cfgValid = s.cfgValid from rfl]
    split <;> exact ⟨_, _, rfl, rfl, rfl⟩
  | _ => exact ⟨_, _, rfl, rfl, rfl⟩

theorem AgreeButErrors.completeWrite {o o' : Outcome} (h : AgreeButErrors o o') :
    AgreeButErrors (completeWrite o) (completeWrite o') := by
  obtain ⟨t, t', rfl, rfl, ht⟩ := h
  exact ⟨_, _, rfl, rfl, congrArg (respond .okay) ht⟩

/-- Settles O46: of the operations that are no command, only a read of STATUS answers a value with the error bits
in it. -/
theorem errorBitsSteerNothing : Obligations.ErrorBitsSteerNothing := by
  intro i s e c hi
  cases i with
  | nop => exact performCommand_agreeButErrors .nop s e c
  | setl l => exact performCommand_agreeButErrors (.setl l) s e c
  | setn nb => exact performCommand_agreeButErrors (.setn nb) s e c
  | convert => exact performCommand_agreeButErrors .convert s e c
  | clear => exact performCommand_agreeButErrors .clear s e c
  | illegalCmd w => exact performCommand_agreeButErrors (.illegal w) s e c
  | wrCmd w => exact (performCommand_agreeButErrors (decodeCommand w) s e c).completeWrite
  | rdStatus => exact absurd rfl hi
  | _ => exact ⟨_, _, rfl, rfl, rfl⟩

end Sys2Proof.Machine
end

section
/-! PROOFS. The reset state, and what follows from it until a legal SETL (10_state.md R48). -/

namespace Sys2Proof.Machine

/-- Unconfigured, with no event to come that configures a legal length. -/
structure NoLengthComes (s : State) : Prop where
  unconfigured : s.cfgValid = false
  no_legal_setl : ∀ e ∈ s.pending, ∀ l : BitVec 16, l ≠ 0#16 → commandOf e ≠ some (.setl l)

/-- Only a legal SETL sets CFG_VALID (R29), and the events to come only grow fewer. -/
theorem step_keeps_noLengthComes (s t : State) (h : NoLengthComes s) (hstep : step s = .next t) :
    NoLengthComes t := by
  rcases step_effect_cases hstep with ⟨-, rfl⟩ | ⟨e, rest, hp, heff⟩
  · exact h
  have hahead : ∀ e' ∈ e :: rest, ∀ l : BitVec 16, l ≠ 0#16 → commandOf e' ≠ some (.setl l) :=
    hp ▸ h.no_legal_setl
  obtain ⟨hsetl, hreset, hother⟩ := heff.config
  constructor
  · by_cases hr : e = .reset
    · exact (hreset hr).2
    by_cases hl : ∃ l, commandOf e = some (.setl l)
    · obtain ⟨l, hl⟩ := hl
      have hzero : l = 0#16 := by_contra fun hne => hahead e List.mem_cons_self l hne hl
      simpa [hzero] using (hsetl l hl).2
    · exact (hother (not_exists.1 hl) hr).2.trans h.unconfigured
  · rw [heff.pending]
    exact fun e' he' => hahead e' (List.mem_cons_of_mem e he')

theorem execConvert_unconfigured {s : State} (h : s.cfgValid = false) :
    exec .convert s = .next { s with err := true, errcode := 4#4 } :=
  if_neg (Bool.eq_false_iff.1 h)

/-- Settles O12: the values are those of `State.reset`, and no run configures a length without a legal SETL. -/
theorem resetStateValues : Obligations.ResetStateValues := by
  refine ⟨rfl, rfl, rfl, rfl, rfl, rfl, rfl, rfl, rfl, fun es k t hes hrun => ?_⟩
  have hstart : NoLengthComes (State.reset.withEvents es) := ⟨rfl, hes⟩
  exact execConvert_unconfigured (runSteps_induction step_keeps_noLengthComes k hstart hrun).unconfigured

end Sys2Proof.Machine
end

section
/-! PROOFS. Which access a step runs: the access presented next (10_state.md R20, 20_memory.md R66), and a placed
table word (R27). -/

namespace Sys2Proof

/-- The bus check, read off the address as a number (R63). -/
theorem busAccepts_iff (x : Access) :
    busAccepts x = true ↔ x.size = .word ∧ wordAligned (accessOffset x) = true := by
  have hlow : (accessOffset x).extractLsb' 0 2 = 0#2 ↔ (accessOffset x).toNat % 4 = 0 := by
    rw [← BitVec.toNat_inj]; simp
  simp [busAccepts, wordAligned, hlow]

theorem inDigestWindow_iff (a : Offset) : inDigestWindow a = true ↔ 0x040#12 ≤ a ∧ a ≤ 0x07C#12 := by
  simp [inDigestWindow, BitVec.le_def]

theorem inResultWindow_iff (a : Offset) : inResultWindow a = true ↔ 0x080#12 ≤ a ∧ a ≤ 0x0BC#12 := by
  simp [inResultWindow, BitVec.le_def]

theorem decodeWrite_wellFormed {a : Offset} (h : wordAligned a = true) (v : Word) :
    (decodeWrite a v).wellFormed = true := by
  unfold decodeWrite
  split_ifs with hcmd hdigest
  · rfl
  · rfl
  · rw [← inDigestWindow_iff, Bool.not_eq_true] at hdigest
    simpa [Instr.wellFormed, h, hdigest, ← BitVec.toNat_inj] using hcmd

theorem decodeRead_wellFormed {a : Offset} (h : wordAligned a = true) : (decodeRead a).wellFormed = true := by
  unfold decodeRead
  split_ifs with h00 h04 h08 h0C h10 h14 h18 hdigest hresult
  case neg =>
    rw [← inDigestWindow_iff, Bool.not_eq_true] at hdigest
    rw [← inResultWindow_iff, Bool.not_eq_true] at hresult
    rw [← BitVec.toNat_inj] at h00 h04 h08 h0C h10 h14 h18
    simpa [Instr.wellFormed, registerOffsets, h, hdigest, hresult] using
      And.intro h00 ⟨h04, h08, h0C, h10, h14, h18⟩
  all_goals rfl

/-- A catch-all row of R97 is read only where no row before it matches. -/
theorem decodeAccess_wellFormed (x : Access) : (decodeAccess x).wellFormed = true := by
  unfold decodeAccess
  split
  · next hacc =>
    have haligned := ((busAccepts_iff x).1 hacc).2
    cases x.op with
    | read => exact decodeRead_wellFormed haligned
    | write v => exact decodeWrite_wellFormed haligned v
  · next hacc =>
    rw [busAccepts_iff, not_and_or, Bool.not_eq_true] at hacc
    simpa [Instr.wellFormed] using hacc

/-- A command word reaches the D2I as a write to CMD (R27, R99). -/
theorem decodeAccess_commandWrite (w : Word) : decodeAccess (accessOfEncoded (.command w)) = .wrCmd w := by
  rw [decodeAccess, if_pos (Laws.BusCheck.commandWrite_accepted w)]
  rfl

end Sys2Proof

namespace Sys2Proof.Machine

/-- Settles O9: the decoder is total and only answers well-formed operations. -/
theorem stepRunsPresentedAccess : Obligations.StepRunsPresentedAccess :=
  fun _ x _ hp => ⟨decodeAccess_wellFormed x, step_access hp⟩

theorem step_presentAccess (x : Access) (s : State) : step (presentAccess x s) = exec (decodeAccess x) s :=
  step_access (s := presentAccess x s) rfl

/-- Settles O10: a command word is run as the write of it to CMD, which performs its command and adds the OKAY. -/
theorem stepRunsPlacedTableWord : Obligations.StepRunsPlacedTableWord := by
  intro s nbits w i hdecode
  obtain rfl : decode (encodedOfTableWord nbits w) = i := Option.some.inj hdecode
  rw [State.withFetchWord, step_presentAccess]
  by_cases hbits : nbits = 32
  · rw [if_pos hbits, encodedOfTableWord, if_pos hbits, decodeAccess_commandWrite, decode, exec_instrOfCommand]
    rfl
  · rw [if_neg hbits, encodedOfTableWord, if_neg hbits]
    rfl

end Sys2Proof.Machine
end

section
/-! PROOFS. The two data windows spell their buffers: sixteen words, the first the most significant (10_state.md
R38, R40). -/

namespace Sys2Proof.Machine

/-! ### The RESULT window -/

/-- The digits of a number in a base, up to the number of digits given. -/
theorem sum_digits_eq_mod (base x n : Nat) :
    ∑ i ∈ Finset.range n, x / base ^ i % base * base ^ i = x % base ^ n := by
  induction n with
  | zero => simp [Nat.mod_one]
  | succ n ih => rw [Finset.sum_range_succ, ih, Nat.mod_pow_succ, mul_comm (base ^ n)]

theorem readResultWord_toNat (s : State) (k : Fin 16) :
    (readResultWord s k).toNat = s.result.toNat / (2 ^ 32) ^ (15 - k.val) % 2 ^ 32 := by
  rw [readResultWord, BitVec.extractLsb'_toNat, Nat.shiftRight_eq_div_pow, ← pow_mul,
    show 480 - 32 * k.val = 32 * (15 - k.val) by omega]

/-- The sixteen words are the sixteen digits of RESULT in base 2^32, the last word the least significant. -/
theorem sum_readResultWord (s : State) :
    ∑ k : Fin 16, (readResultWord s k).toNat * 2 ^ (32 * (15 - k.val)) = s.result.toNat := by
  calc ∑ k : Fin 16, (readResultWord s k).toNat * 2 ^ (32 * (15 - k.val))
      = ∑ k : Fin 16, s.result.toNat / (2 ^ 32) ^ k.rev.val % 2 ^ 32 * (2 ^ 32) ^ k.rev.val := by
        refine Finset.sum_congr rfl fun k _ => ?_
        rw [readResultWord_toNat, pow_mul, Fin.val_rev, show 16 - (k.val + 1) = 15 - k.val by omega]
    _ = ∑ k : Fin 16, s.result.toNat / (2 ^ 32) ^ k.val % 2 ^ 32 * (2 ^ 32) ^ k.val :=
        Equiv.sum_comp Fin.revPerm fun k : Fin 16 =>
          s.result.toNat / (2 ^ 32) ^ k.val % 2 ^ 32 * (2 ^ 32) ^ k.val
    _ = s.result.toNat % (2 ^ 32) ^ 16 := by
        rw [← sum_digits_eq_mod, Finset.sum_range]
    _ = s.result.toNat := by
        rw [← pow_mul, show 32 * 16 = 512 from rfl, Nat.mod_eq_of_lt s.result.isLt]

/-- Settles O35: `readResultWord` gives the words, and `sum_readResultWord` puts them together. -/
theorem resultWindowIsBigEndian : Obligations.ResultWindowIsBigEndian := by
  refine fun s => ⟨readResultWord s, fun _ => rfl, fun k j hj => ?_, sum_readResultWord s⟩
  simp [readResultWord, hj]

/-! ### The DIGEST window -/

theorem toNat_append_byte {n : Nat} (x : BitVec n) (b : Byte) : (x ++ b).toNat = x.toNat * 2 ^ 8 + b.toNat := by
  rw [BitVec.toNat_append, ← Nat.shiftLeft_add_eq_or_of_lt b.isLt, Nat.shiftLeft_eq]

/-- The four bytes of DIGEST_k, the earlier byte in the more significant place (R38). -/
theorem readDigestWord_toNat (s : State) (k : Fin 16) :
    (readDigestWord s k).toNat =
      ∑ j : Fin 4, (readDigestByte s (digestIndex k j)).toNat * 2 ^ (8 * (3 - j.val)) := by
  simp only [readDigestWord, toNat_append_byte, Fin.sum_univ_four, Fin.isValue, Fin.coe_ofNat_eq_mod]
  ring

/-- Byte `j` from the top of DIGEST_k (R38). -/
theorem readDigestWord_byte (s : State) (k : Fin 16) (j : Fin 4) :
    (readDigestWord s k).toNat / 2 ^ (24 - 8 * j.val) % 2 ^ 8 = (readDigestByte s (digestIndex k j)).toNat := by
  rw [readDigestWord_toNat, Fin.sum_univ_four]
  have h (j : Fin 4) := (readDigestByte s (digestIndex k j)).isLt
  have h0 := h 0
  have h1 := h 1
  have h2 := h 2
  have h3 := h 3
  fin_cases j <;> simp <;> omega

/-- Byte `4k + j` of the buffer has the same weight in the window as in the big-endian value. -/
theorem sum_readDigestWord (s : State) :
    ∑ k : Fin 16, (readDigestWord s k).toNat * 2 ^ (32 * (15 - k.val)) = beValue s.digest.toList := by
  have hlen : s.digest.toList.length = 64 := by simp
  calc ∑ k : Fin 16, (readDigestWord s k).toNat * 2 ^ (32 * (15 - k.val))
      = ∑ k : Fin 16, ∑ j : Fin 4,
          (readDigestByte s (digestIndex k j)).toNat * 2 ^ (8 * (63 - (digestIndex k j).val)) := by
        refine Finset.sum_congr rfl fun k _ => ?_
        rw [readDigestWord_toNat, Finset.sum_mul]
        refine Finset.sum_congr rfl fun j _ => ?_
        rw [mul_assoc, ← pow_add, digestIndex,
          show 8 * (3 - j.val) + 32 * (15 - k.val) = 8 * (63 - (4 * k.val + j.val)) by omega]
    _ = ∑ i : Fin 64, (readDigestByte s i).toNat * 2 ^ (8 * (63 - i.val)) := by
        rw [← Fintype.sum_prod_type']
        refine Fintype.sum_equiv (finProdFinEquiv (m := 16) (n := 4)) _ _ fun p => ?_
        rw [show digestIndex p.1 p.2 = finProdFinEquiv p from Fin.ext (Nat.add_comm _ _)]
    _ = beValue s.digest.toList := by
        rw [beValue_eq_sum]
        refine Fintype.sum_equiv (finCongr hlen.symm) _ _ fun i => ?_
        simp [readDigestByte]

/-- Settles O34: `readDigestWord` gives the words, and `sum_readDigestWord` puts them together. -/
theorem digestWindowIsBigEndian : Obligations.DigestWindowIsBigEndian := by
  refine fun s => ⟨readDigestWord s, fun _ => rfl, fun k i j hj hi => ?_, sum_readDigestWord s⟩
  obtain rfl : i = digestIndex k ⟨j, hj⟩ := Fin.ext hi
  exact readDigestWord_byte s k ⟨j, hj⟩

/-! ### What STATUS says of the RESULT window -/

/-- RESULT_VALID is bit 1 of STATUS (R28, R198). -/
theorem statusWord_bit_one (s : State) : (statusWord s).getLsbD 1 = s.resultValid := by
  simp only [statusWord, flagBit, BitVec.getLsbD_setWidth, BitVec.getLsbD_append]
  simp

/-- Settles O54: the window spells RESULT, and a RESULT shown as valid is the conversion of the current inputs. -/
theorem hostReadsCurrentConversion : Obligations.HostReadsCurrentConversion := by
  refine fun s h => ⟨statusWord s, readResultWord s, rfl, fun _ => rfl, fun hbit => ?_⟩
  rw [statusWord_bit_one] at hbit
  rw [sum_readResultWord, (h.valid_result_toNat hbit).1]
  split_ifs with hshift
  · rfl
  · rw [Nat.sub_eq_zero_of_le (Nat.le_of_not_lt hshift), pow_zero, Nat.div_one]

end Sys2Proof.Machine
end

section
/-! PROOFS. Encode after decode (30_encoding.md R94, R97), and the twelve address bits a decoder reads
(20_memory.md R67, R68). -/

namespace Sys2Proof

/-! ### Command words -/

/-- A word is its OPC and its OPERAND (R91). -/
theorem commandWord_fields (w : Word) : commandWord (w.extractLsb' 24 8) (w.extractLsb' 0 24) = w := by
  exact (BitVec.extractLsb'_append_extractLsb'_eq_extractLsb' rfl).trans BitVec.extractLsb'_eq_self

/-- The operand field of SETL with the reserved bits above it. -/
theorem operand_split_sixteen (w : Word) : w.extractLsb' 16 8 ++ w.extractLsb' 0 16 = w.extractLsb' 0 24 :=
  BitVec.extractLsb'_append_extractLsb'_eq_extractLsb' rfl

/-- The operand field of SETN with the reserved bits above it. -/
theorem operand_split_eight (w : Word) : w.extractLsb' 8 16 ++ w.extractLsb' 0 8 = w.extractLsb' 0 24 :=
  BitVec.extractLsb'_append_extractLsb'_eq_extractLsb' rfl

/-- Each line of R94 fixes OPC and the reserved bits of OPERAND to what the encoder writes there. -/
theorem encode_instrOfCommand_decodeCommand (w : Word) :
    encode (instrOfCommand (decodeCommand w)) = .command w := by
  simp only [decodeCommand]
  split_ifs with hnop hsetl hsetn hconvert hclear <;> refine congrArg Encoded.command ?_
  · rw [← hnop.1, ← hnop.2, commandWord_fields]
  · rw [← hsetl.1, ← hsetl.2, operand_split_sixteen, commandWord_fields]
  · rw [← hsetn.1, ← hsetn.2, operand_split_eight, commandWord_fields]
  · rw [← hconvert.1, ← hconvert.2, commandWord_fields]
  · rw [← hclear.1, ← hclear.2, commandWord_fields]
  · rfl

/-! ### Accesses -/

@[simp] theorem accessOffset_toNat (x : Access) : (accessOffset x).toNat = x.addr % 4096 :=
  BitVec.toNat_ofNat _ _

/-- An aligned offset of a 16-word window is the offset of the word that `windowIndex` numbers (R97). -/
theorem windowIndex_offset {base : Nat} {a : Offset} (ha : wordAligned a = true) (hbase : base % 4 = 0)
    (hlo : base ≤ a.toNat) (hhi : a.toNat ≤ base + 0x3C) :
    base + 4 * (windowIndex base a).val = a.toNat := by
  simp only [wordAligned, beq_iff_eq] at ha
  simp only [windowIndex, Fin.val_ofNat]
  omega

theorem digestWindow_offset {a : Offset} (ha : wordAligned a = true) (h : 0x040#12 ≤ a ∧ a ≤ 0x07C#12) :
    0x040 + 4 * (windowIndex 0x040 a).val = a.toNat :=
  windowIndex_offset ha rfl h.1 h.2

theorem resultWindow_offset {a : Offset} (ha : wordAligned a = true) (h : 0x080#12 ≤ a ∧ a ≤ 0x0BC#12) :
    0x080 + 4 * (windowIndex 0x080 a).val = a.toNat :=
  windowIndex_offset ha rfl h.1 h.2

theorem encode_decodeWrite {a : Offset} (ha : wordAligned a = true) (v : Word) :
    encode (decodeWrite a v) = .access (wordAccess (.write v) a.toNat) := by
  unfold decodeWrite
  split_ifs with hcmd hdigest
  · rw [hcmd]; rfl
  · rw [encode, digestWindow_offset ha hdigest]
  · rfl

theorem encode_decodeRead {a : Offset} (ha : wordAligned a = true) :
    encode (decodeRead a) = .access (wordAccess .read a.toNat) := by
  unfold decodeRead
  split_ifs with h00 h04 h08 h0C h10 h14 h18 hdigest hresult
  · rw [h00]; rfl
  · rw [h04]; rfl
  · rw [h08]; rfl
  · rw [h0C]; rfl
  · rw [h10]; rfl
  · rw [h14]; rfl
  · rw [h18]; rfl
  · rw [encode, digestWindow_offset ha hdigest]
  · rw [encode, resultWindow_offset ha hresult]
  · rfl

/-- An accepted write is decoded by its offset and data alone (R97). -/
theorem decodeAccess_write {x : Access} {v : Word} (hacc : busAccepts x = true) (hop : x.op = .write v) :
    decodeAccess x = decodeWrite (accessOffset x) v := by
  simp only [decodeAccess, hacc, hop, if_true]

/-- An accepted read is decoded by its offset alone (R97). -/
theorem decodeAccess_read {x : Access} (hacc : busAccepts x = true) (hop : x.op = .read) :
    decodeAccess x = decodeRead (accessOffset x) := by
  simp only [decodeAccess, hacc, hop, if_true]

theorem decodeAccess_refused {x : Access} (hacc : ¬ busAccepts x = true) :
    decodeAccess x = .busErr x.op x.size (accessOffset x) :=
  if_neg hacc

theorem encode_decodeAccess (x : Access) :
    encode (decodeAccess x) = .access { x with addr := x.addr % 4096 } := by
  by_cases hacc : busAccepts x = true
  · obtain ⟨hsize, haligned⟩ := (busAccepts_iff x).1 hacc
    rw [← accessOffset_toNat]
    cases hop : x.op with
    | read => rw [decodeAccess_read hacc hop, encode_decodeRead haligned, wordAccess, hsize]
    | write v => rw [decodeAccess_write hacc hop, encode_decodeWrite haligned, wordAccess, hsize]
  · rw [decodeAccess_refused hacc, encode, accessOffset_toNat]

/-- Settles O3: no line of R94 or R97 drops a bit that its operation does not give back. -/
theorem encodeDecodeGivesBackTheEncoding : Obligations.EncodeDecodeGivesBackTheEncoding :=
  ⟨encode_instrOfCommand_decodeCommand, encode_decodeAccess⟩

/-! ### The window's base -/

/-- The base is a multiple of 4096, so it leaves `addr[11:0]` alone (R67). -/
theorem accessOffset_base_add (op : BusOp) (size : BusSize) (a : Nat) :
    accessOffset { op := op, size := size, addr := Config.d2iBase + a } =
      accessOffset { op := op, size := size, addr := a } := by
  apply BitVec.eq_of_toNat_eq
  simp only [accessOffset_toNat, Config.d2iBase, Nat.mul_add_mod]

/-- Settles O8: the decoder reads an address only through its offset (R68). -/
theorem windowBaseIsInvisible : Obligations.WindowBaseIsInvisible := by
  intro op size a
  unfold decodeAccess busAccepts
  rw [accessOffset_base_add]

end Sys2Proof
end

section
/-! PROOFS. What CONVERT reads (20_memory.md R70, 41_convert.md R147). -/

namespace Sys2Proof.Machine

/-- Two states of one DLEN that agree on the bytes below it have the same digest to convert. -/
theorem digestBytes_congr {s s' : State} (hdlen : s.dlen = s'.dlen)
    (hbytes : ∀ i : Fin 64, i.val < s.dlen.toNat → readDigestByte s i = readDigestByte s' i) :
    digestBytes s = digestBytes s' := by
  unfold digestBytes
  rw [← hdlen]
  refine List.ext_getElem (by simp) fun i hi _ => ?_
  simp only [List.length_take, Vector.length_toList, lt_min_iff] at hi
  simpa [readDigestByte] using hbytes ⟨i, hi.2⟩ hi.1

/-- A CONVERT of a configured state writes what the three conversion functions say (R140). -/
theorem exec_convert_configured {s : State} (h : s.cfgValid = true) :
    exec .convert s = .next { s with
      result := convertResult s, shamt := convertShamt s, shifted := convertShifted s, resultValid := true } :=
  if_pos h

/-- Settles O22: the conversion functions read a state through `digestBytes`, DLEN and CFG_L only. -/
theorem convertReadsOnlyItsInputs : Obligations.ConvertReadsOnlyItsInputs := by
  intro s s' hs hs' hcfg hdlen hbytes
  have hL : targetBits s = targetBits s' := congrArg BitVec.toNat hcfg
  have hn : digestBits s = digestBits s' := congrArg (8 * BitVec.toNat ·) hdlen
  have hD : digestValue s = digestValue s' := congrArg beValue (digestBytes_congr hdlen hbytes)
  refine ⟨_, _, exec_convert_configured hs, exec_convert_configured hs', ?_, ?_, ?_, rfl⟩
  · rw [convertResult, hL, hn, hD, ← convertResult]
  · rw [convertShamt, hL, hn, ← convertShamt]
  · rw [convertShifted, hL, hn, ← convertShifted]

end Sys2Proof.Machine
end

section
/-! PROOFS. What one access does, said by its offset: an accepted read answers the word of the register map and
nothing else, and a refused access or an ignored write is only answered (20_memory.md R65, R69). -/

namespace Sys2Proof.Machine

/-! ### The register map at the offsets of the data windows -/

/-- DIGEST_k is the big-endian value of its four bytes (R38). -/
theorem readDigestWord_eq_beValue (s : State) (k : Fin 16) :
    readDigestWord s k = BitVec.ofNat 32 (beValue ((s.digest.toList.drop (4 * k.val)).take 4)) := by
  have hfour : (s.digest.toList.drop (4 * k.val)).take 4 =
      List.ofFn fun j => readDigestByte s (digestIndex k j) := by
    refine List.ext_getElem (by simp; omega) fun j hj _ => ?_
    simp only [List.getElem_take, List.getElem_drop, Vector.getElem_toList, List.getElem_ofFn]
    rfl
  have hvalue : beValue (List.ofFn fun j => readDigestByte s (digestIndex k j)) = (readDigestWord s k).toNat := by
    rw [readDigestWord_toNat, Fin.sum_univ_four]
    simp [beValue, List.ofFn_succ, Nat.add_assoc]
  rw [hfour, hvalue, BitVec.ofNat_toNat, BitVec.setWidth_eq]

theorem readResultWord_eq_shifted (s : State) (k : Fin 16) :
    readResultWord s k = BitVec.ofNat 32 (s.result.toNat / 2 ^ (480 - 32 * k.val)) := by
  apply BitVec.eq_of_toNat_eq
  rw [readResultWord, BitVec.extractLsb'_toNat, Nat.shiftRight_eq_div_pow, BitVec.toNat_ofNat]

theorem windowRead_digest (s : State) (k : Fin 16) : windowRead s (0x040 + 4 * k.val) = readDigestWord s k := by
  have hk : 0x040 ≤ 0x040 + 4 * k.val ∧ 0x040 + 4 * k.val ≤ 0x07C := by omega
  rw [windowRead, if_neg, if_neg, if_neg, if_neg, if_neg, if_neg, if_pos hk, Nat.add_sub_cancel_left,
    readDigestWord_eq_beValue]
  all_goals omega

theorem windowRead_result (s : State) (k : Fin 16) : windowRead s (0x080 + 4 * k.val) = readResultWord s k := by
  have hk : 0x080 ≤ 0x080 + 4 * k.val ∧ 0x080 + 4 * k.val ≤ 0x0BC := by omega
  rw [windowRead, if_neg, if_neg, if_neg, if_neg, if_neg, if_neg, if_neg, if_pos hk, Nat.add_sub_cancel_left,
    readResultWord_eq_shifted, ← Nat.mul_assoc]
  all_goals omega

/-- The register map reads neither the response nor the events to come. -/
@[simp] theorem windowRead_respond (r : BusResp) (s : State) (a : Nat) :
    windowRead (respond r s) a = windowRead s a := rfl

@[simp] theorem windowRead_withPending (s : State) (rest : List HostEvent) (a : Nat) :
    windowRead { s with pending := rest } a = windowRead s a := rfl

/-! ### The answer of an access -/

/-- Each line of R97 for reads answers what the register map has at the line's offset (R23, R195 to R204). -/
theorem exec_decodeRead {a : Offset} (ha : wordAligned a = true) (s : State) :
    exec (decodeRead a) s = answerRead (windowRead s a.toNat) s := by
  unfold decodeRead
  split_ifs with h00 h04 h08 h0C h10 h14 h18 hdigest hresult
  · rw [h00]; rfl
  · rw [h04]; rfl
  · rw [h08]; rfl
  · rw [h0C]; rfl
  · rw [h10]; exact congrArg (answerRead · s) (BitVec.ofNat_toNat 32 s.cfgL).symm
  · rw [h14]; exact congrArg (answerRead · s) (BitVec.ofNat_toNat 32 s.dlen).symm
  · rw [h18]; exact congrArg (answerRead · s) (BitVec.ofNat_toNat 32 s.shamt).symm
  · rw [← digestWindow_offset ha hdigest, windowRead_digest]; rfl
  · rw [← resultWindow_offset ha hresult, windowRead_result]; rfl
  · have hreserved : windowRead s a.toNat = 0#32 := by
      simp only [← BitVec.toNat_inj, BitVec.le_def, BitVec.toNat_ofNat] at *
      simp [windowRead, *]
    rw [hreserved]; rfl

/-- An accepted read gives the word the register map shows, and does nothing else. -/
theorem exec_acceptedRead {x : Access} (hacc : busAccepts x = true) (hop : x.op = .read) (s : State) :
    exec (decodeAccess x) s = .next (respond (.okayData (windowRead s (x.addr % 4096))) s) := by
  rw [decodeAccess_read hacc hop, exec_decodeRead ((busAccepts_iff x).1 hacc).2, accessOffset_toNat, answerRead]

/-- A refused access is answered BUSERR, and does nothing else (R205). -/
theorem exec_refused {x : Access} (hacc : ¬ busAccepts x = true) (s : State) :
    exec (decodeAccess x) s = .next (respond .busErr s) := by
  rw [decodeAccess_refused hacc]; rfl

/-- A 32-bit access is accepted wherever its address is a multiple of 4. -/
theorem busAccepts_of_aligned {x : Access} (hsize : x.size = .word) (haddr : x.addr % 4 = 0) :
    busAccepts x = true := by
  refine (busAccepts_iff x).2 ⟨hsize, ?_⟩
  simp only [wordAligned, accessOffset_toNat, beq_iff_eq]
  omega

/-- Off CMD and the DIGEST window, a write is ignored (R97, R194). -/
theorem decodeWrite_eq_wrIgnored {a : Offset} (hcmd : a.toNat ≠ 0x008)
    (hdigest : ¬ (0x040 ≤ a.toNat ∧ a.toNat ≤ 0x07C)) (v : Word) : decodeWrite a v = .wrIgnored a v := by
  rw [decodeWrite, if_neg fun h => hcmd (congrArg BitVec.toNat h), if_neg]
  exact hdigest

/-- An ignored write is answered OKAY, and does nothing else (R194). -/
theorem exec_ignoredWrite {x : Access} {v : Word} (hacc : busAccepts x = true) (hop : x.op = .write v)
    (hcmd : x.addr % 4096 ≠ 0x008) (hdigest : ¬ (0x040 ≤ x.addr % 4096 ∧ x.addr % 4096 ≤ 0x07C)) (s : State) :
    exec (decodeAccess x) s = .next (respond .okay s) := by
  rw [← accessOffset_toNat] at hcmd hdigest
  rw [decodeAccess_write hacc hop, decodeWrite_eq_wrIgnored hcmd hdigest]; rfl

/-! ### The same access again -/

/-- A command performed on what it left, whatever the bus answered in between, leaves it as it is: no command
reads what it writes. -/
theorem CommandEffect.performCommand_again {c : Command} {s u : State} (h : CommandEffect s c u) (r : BusResp) :
    performCommand c (respond r u) = .next (respond r u) := by
  cases h with
  | nop => rfl
  | setl hl => exact if_neg hl
  | setlZero => rfl
  | setn hnb => exact if_pos hnb
  | setnLong hnb => exact if_neg (Nat.not_le_of_lt hnb)
  | convert hv => exact if_pos hv
  | convertUnconfigured hv => exact if_neg (Bool.eq_false_iff.1 hv)
  | clear => rfl
  | illegal w => rfl

theorem exec_wrCmd_again {w : Word} {s t : State} (h : exec (.wrCmd w) s = .next t) :
    exec (.wrCmd w) t = .next t := by
  obtain ⟨u, hu⟩ := performCommand_total (decodeCommand w) s
  obtain rfl : respond .okay u = t := by simpa [exec_wrCmd hu] using h
  exact exec_wrCmd (u := respond .okay u) ((commandEffect_of_performCommand hu).performCommand_again .okay)

theorem digest_ext {s s' : State} (h : ∀ i, readDigestByte s i = readDigestByte s' i) : s.digest = s'.digest :=
  Vector.ext fun i hi => h ⟨i, hi⟩

/-- The word of DIGEST_k is in place after the first write of it (R193). -/
theorem writeDigestWord_again (k : Fin 16) (v : Word) (s : State) :
    (writeDigestWord k v (writeDigestWord k v s)).digest = (writeDigestWord k v s).digest := by
  refine digest_ext fun i => ?_
  simp only [readDigestByte_writeDigestWord]
  split <;> rfl

theorem exec_wrDigest (k : Fin 16) (v : Word) (s : State) :
    exec (.wrDigest k v) s = .next (respond .okay { writeDigestWord k v s with resultValid := false }) := rfl

theorem exec_wrDigest_again {k : Fin 16} {v : Word} {s t : State} (h : exec (.wrDigest k v) s = .next t) :
    exec (.wrDigest k v) t = .next t := by
  obtain rfl : respond .okay { writeDigestWord k v s with resultValid := false } = t := by
    simpa [exec_wrDigest] using h
  exact congrArg (fun d => Host.Outcome.next
    (respond .okay { writeDigestWord k v s with digest := d, resultValid := false })) (writeDigestWord_again k v s)

/-- A read, accepted or refused, is only answered, and the answer does not depend on the one before it (R65). -/
theorem exec_read_answers {x : Access} (hop : x.op = .read) (s : State) :
    ∃ r, exec (decodeAccess x) s = .next (respond r s) ∧
      exec (decodeAccess x) (respond r s) = .next (respond r s) := by
  by_cases hacc : busAccepts x = true
  · exact ⟨_, exec_acceptedRead hacc hop s, exec_acceptedRead hacc hop _⟩
  · exact ⟨_, exec_refused hacc s, exec_refused hacc _⟩

/-- Settles O47: one lemma for each of the four kinds of access. -/
theorem repeatedAccessIsIdempotent : Obligations.RepeatedAccessIsIdempotent := by
  refine ⟨fun _ _ _ => exec_wrCmd_again, fun _ _ _ _ => exec_wrDigest_again, fun x s hop => ?_,
    fun x v s hop hsize haddr hcmd hdigest => ?_⟩
  · obtain ⟨r, hfirst, hagain⟩ := exec_read_answers hop s
    exact ⟨respond r s, hfirst, rfl, hagain⟩
  · exact ⟨respond .okay s, exec_ignoredWrite (busAccepts_of_aligned hsize haddr) hop hcmd hdigest s, rfl⟩

/-! ### A read after an event -/

/-- A step on an aligned 32-bit read takes the read and answers it from the register map. -/
theorem step_alignedRead {s : State} {a : Nat} {rest : List HostEvent} (hlt : a < 4096) (ha : a % 4 = 0)
    (hp : s.pending = .access { op := .read, size := .word, addr := a } :: rest) :
    step s = .next { s with pending := rest, response := .okayData (windowRead s a) } := by
  rw [step_access hp, exec_acceptedRead (busAccepts_of_aligned rfl ha) rfl, Nat.mod_eq_of_lt hlt,
    windowRead_withPending]
  rfl

/-- Settles O48: the first step leaves the read as the next event, and the second answers it from the state it
finds (R66). -/
theorem readSeesEveryEffectBefore : Obligations.ReadSeesEveryEffectBefore := by
  intro s t e a rest hlt ha hp hstep
  obtain ⟨t', hstep', heff⟩ := step_effect hp
  obtain rfl : t = t' := by simpa [hstep] using hstep'
  rw [runSteps_add 1 1 (t := t) (by simp only [runSteps, hstep]), runSteps, step_alignedRead hlt ha heff.pending]
  rfl

end Sys2Proof.Machine
end

section
/-! PROOFS. Command words as numbers (30_encoding.md R91 to R95): the decoder, its match/mask rows, and the words
that are illegal. -/

namespace Sys2Proof

/-! ### Fields and masks as numbers -/

/-- A value with another below it (R91). -/
theorem toNat_append_fields {m n : Nat} (x : BitVec m) (y : BitVec n) :
    (x ++ y).toNat = x.toNat * 2 ^ n + y.toNat := by
  rw [BitVec.toNat_append, ← Nat.shiftLeft_add_eq_or_of_lt y.isLt, Nat.shiftLeft_eq]

/-- A mask that drops the low `n` bits selects the words that agree with the match above them. -/
theorem and_mask_eq_iff {w mask v : Word} (n : Nat) (hmask : mask = BitVec.allOnes 32 <<< n)
    (hv : v.toNat % 2 ^ n = 0) : w &&& mask = v ↔ w.toNat / 2 ^ n = v.toNat / 2 ^ n := by
  have hdrop : (w &&& mask).toNat = w.toNat / 2 ^ n * 2 ^ n := by
    have hle := Nat.div_mul_le_self w.toNat (2 ^ n)
    rw [hmask, ← BitVec.shiftLeft_ushiftRight, BitVec.toNat_shiftLeft, BitVec.toNat_ushiftRight,
      Nat.shiftRight_eq_div_pow, Nat.shiftLeft_eq, Nat.mod_eq_of_lt (by omega)]
  rw [← BitVec.toNat_inj, hdrop]
  constructor
  · intro h
    rw [← h, Nat.mul_div_cancel _ (Nat.two_pow_pos n)]
  · intro h
    rw [h, Nat.div_mul_cancel (Nat.dvd_of_mod_eq_zero hv)]

/-- A mask of all ones selects the match alone. -/
theorem and_ones_eq_iff {w v : Word} : w &&& 0xFFFFFFFF#32 = v ↔ w.toNat = v.toNat := by
  rw [← BitVec.toNat_inj, show (0xFFFFFFFF#32) = BitVec.allOnes 32 from rfl, BitVec.and_allOnes]

/-- OPC is `c` and the reserved bits, from bit `n` up, are 0: the word above bit `n` is `c` with zeros below it. -/
theorem opc_and_reserved_iff (w : Word) (c : BitVec 8) {n : Nat} (hn : n ≤ 24) :
    w.extractLsb' 24 8 = c ∧ w.extractLsb' n (24 - n) = 0#(24 - n) ↔
      w.toNat / 2 ^ n = c.toNat * 2 ^ (24 - n) := by
  have hopc : w.toNat / 2 ^ 24 = w.toNat / 2 ^ n / 2 ^ (24 - n) := by
    rw [Nat.div_div_eq_div_mul, ← pow_add, Nat.add_sub_cancel' hn]
  have hbyte : w.toNat / 2 ^ 24 % 2 ^ 8 = w.toNat / 2 ^ 24 := Nat.mod_eq_of_lt (by omega)
  rw [← BitVec.toNat_inj, ← BitVec.toNat_inj, BitVec.extractLsb'_toNat, BitVec.extractLsb'_toNat,
    Nat.shiftRight_eq_div_pow, Nat.shiftRight_eq_div_pow, hbyte, hopc, BitVec.toNat_ofNat, Nat.zero_mod]
  constructor
  · rintro ⟨hdiv, hmod⟩
    rw [← hdiv, Nat.div_mul_cancel (Nat.dvd_of_mod_eq_zero hmod)]
  · intro h
    rw [h, Nat.mul_div_cancel _ (Nat.two_pow_pos _), Nat.mul_mod_left]
    exact ⟨rfl, rfl⟩

theorem setlRow_iff (w : Word) : w &&& 0xFFFF0000#32 = 0x01000000#32 ↔ w.toNat / 2 ^ 16 = 0x0100 :=
  and_mask_eq_iff 16 rfl rfl

theorem setnRow_iff (w : Word) : w &&& 0xFFFFFF00#32 = 0x02000000#32 ↔ w.toNat / 2 ^ 8 = 0x020000 :=
  and_mask_eq_iff 8 rfl rfl

/-! ### The decoder of command words -/

/-- The lines of R94, on the word as a number. -/
theorem decodeCommand_eq_ite (w : Word) :
    decodeCommand w =
      if w.toNat = 0 then .nop
      else if w.toNat / 2 ^ 16 = 0x0100 then .setl (w.extractLsb' 0 16)
      else if w.toNat / 2 ^ 8 = 0x020000 then .setn (w.extractLsb' 0 8)
      else if w.toNat = 0x03000000 then .convert
      else if w.toNat = 0x04000000 then .clear
      else .illegal w := by
  have hwhole (c : BitVec 8) : w.extractLsb' 24 8 = c ∧ w.extractLsb' 0 24 = 0#24 ↔
      w.toNat = c.toNat * 2 ^ 24 := by
    simpa only [pow_zero, Nat.div_one] using opc_and_reserved_iff w c (Nat.zero_le 24)
  have hsetl := opc_and_reserved_iff w 0x01#8 (n := 16) (by omega)
  have hsetn := opc_and_reserved_iff w 0x02#8 (n := 8) (by omega)
  simp only [decodeCommand, hwhole, hsetl, hsetn]
  rfl

/-- The command rows of R94, on the word as a number: none selects `w`. -/
theorem illegalCmd_wellFormed_iff (w : Word) :
    (Instr.illegalCmd w).wellFormed = true ↔
      w.toNat ≠ 0 ∧ w.toNat / 2 ^ 16 ≠ 0x0100 ∧ w.toNat / 2 ^ 8 ≠ 0x020000 ∧
        w.toNat ≠ 0x03000000 ∧ w.toNat ≠ 0x04000000 := by
  simp [Instr.wellFormed, commandRows, MaskRow.selects, and_ones_eq_iff, setlRow_iff, setnRow_iff]

/-- The number of the word that encodes a command (R91, R92). -/
def commandNumber : Command → Nat
  | .nop => 0
  | .setl l => 0x01000000 + l.toNat
  | .setn nb => 0x02000000 + nb.toNat
  | .convert => 0x03000000
  | .clear => 0x04000000
  | .illegal w => w.toNat

theorem commandWord_toNat (opc : BitVec 8) (operand : BitVec 24) :
    (commandWord opc operand).toNat = opc.toNat * 2 ^ 24 + operand.toNat :=
  toNat_append_fields opc operand

theorem encode_instrOfCommand (c : Command) :
    ∃ w : Word, encode (instrOfCommand c) = .command w ∧ w.toNat = commandNumber c := by
  cases c with
  | setl l => exact ⟨_, rfl, by rw [commandWord_toNat, toNat_append_fields]; simp [commandNumber]⟩
  | setn nb => exact ⟨_, rfl, by rw [commandWord_toNat, toNat_append_fields]; simp [commandNumber]⟩
  | _ => exact ⟨_, rfl, rfl⟩

theorem decodeCommand_wellFormed (w : Word) : (instrOfCommand (decodeCommand w)).wellFormed = true := by
  rw [decodeCommand_eq_ite]
  split_ifs with hnop hsetl hsetn hconvert hclear
  case neg => exact (illegalCmd_wellFormed_iff w).2 ⟨hnop, hsetl, hsetn, hconvert, hclear⟩
  all_goals rfl

/-- A word decodes to a command exactly when it is the word that encodes it. -/
theorem decodeCommand_eq_iff {w : Word} {c : Command} (hc : (instrOfCommand c).wellFormed = true) :
    decodeCommand w = c ↔ w.toNat = commandNumber c := by
  constructor
  · rintro rfl
    obtain ⟨w', hencode, hnumber⟩ := encode_instrOfCommand (decodeCommand w)
    obtain rfl : w = w' := by simpa [encode_instrOfCommand_decodeCommand] using hencode
    exact hnumber
  · intro hw
    rw [decodeCommand_eq_ite]
    cases c with
    | setl l =>
      have hl := l.isLt
      rw [commandNumber] at hw
      rw [if_neg (by omega), if_pos (by omega)]
      exact congrArg Command.setl (BitVec.eq_of_toNat_eq (by simp [hw]; omega))
    | setn nb =>
      have hnb := nb.isLt
      rw [commandNumber] at hw
      rw [if_neg (by omega), if_neg (by omega), if_pos (by omega)]
      exact congrArg Command.setn (BitVec.eq_of_toNat_eq (by simp [hw]; omega))
    | illegal w' =>
      obtain rfl : w = w' := BitVec.eq_of_toNat_eq hw
      obtain ⟨hnop, hsetl, hsetn, hconvert, hclear⟩ := (illegalCmd_wellFormed_iff w).1 hc
      rw [if_neg hnop, if_neg hsetl, if_neg hsetn, if_neg hconvert, if_neg hclear]
    | _ => rw [hw]; rfl

theorem decodeCommand_eq_illegal_iff (w : Word) :
    decodeCommand w = .illegal w ↔ (Instr.illegalCmd w).wellFormed = true :=
  ⟨fun h => by simpa [h, instrOfCommand] using decodeCommand_wellFormed w,
    fun h => (decodeCommand_eq_iff (c := .illegal w) h).2 rfl⟩

/-- No word is in two rows of R94: every mask holds the eight bits of OPC, and no two rows have one OPC. -/
theorem countP_commandRows_le_one (w : Word) : commandRows.countP (·.selects w) ≤ 1 := by
  have hmask : ∀ r ∈ commandRows, r.mask &&& 0xFF000000#32 = 0xFF000000#32 := by decide
  have hopc : ∀ r ∈ commandRows, r.selects w = true → r.value &&& 0xFF000000#32 = w &&& 0xFF000000#32 := by
    intro r hr h
    rw [← beq_iff_eq.1 h, BitVec.and_assoc, hmask r hr]
  calc commandRows.countP (·.selects w)
      ≤ commandRows.countP ((· == w &&& 0xFF000000#32) ∘ (·.value &&& 0xFF000000#32)) :=
        List.countP_mono_left fun r hr h => beq_iff_eq.2 (hopc r hr h)
    _ = (commandRows.map (·.value &&& 0xFF000000#32)).count (w &&& 0xFF000000#32) :=
        List.countP_map.symm
    _ ≤ 1 := List.nodup_iff_count_le_one.1 (by decide) _

/-- Settles O5: the number of a command's word, against the number its row selects by. -/
theorem commandsSelectedByMatchAndMask : Obligations.CommandsSelectedByMatchAndMask := by
  intro w
  refine ⟨?_, fun l => ?_, fun nb => ?_, ?_, ?_, ?_, countP_commandRows_le_one w⟩
  · rw [decodeCommand_eq_iff rfl, and_ones_eq_iff]; rfl
  · have hl := l.isLt
    rw [decodeCommand_eq_iff rfl, setlRow_iff, commandNumber]; omega
  · have hnb := nb.isLt
    rw [decodeCommand_eq_iff rfl, setnRow_iff, commandNumber]; omega
  · rw [decodeCommand_eq_iff rfl, and_ones_eq_iff]; rfl
  · rw [decodeCommand_eq_iff rfl, and_ones_eq_iff]; rfl
  · rw [decodeCommand_eq_illegal_iff]; simp [Instr.wellFormed]

/-- Settles O6: what no row selects is R95's list, by OPC and reserved bits; the error is raised by the command, and
the write to CMD adds the OKAY. -/
theorem illegalWordsRaiseIllegalCmd : Obligations.IllegalWordsRaiseIllegalCmd := by
  intro w s
  refine ⟨?_, rfl, fun h => Machine.exec_wrCmd (u := Machine.raiseError .illegalCmd s) (by rw [h]; rfl)⟩
  rw [decodeCommand_eq_illegal_iff, illegalCmd_wellFormed_iff]
  omega

end Sys2Proof
end

section
/-! PROOFS. Host accesses by their descriptors, and the table words that spell them (30_encoding.md R97; log 6). -/

namespace Sys2Proof

/-! ### Table words -/

open BitVec in
/-- The 48 bits of an access read back part by part (log 6). -/
theorem accessOfBits_append (v : Word) (code : BitVec 3) (dir : Bool) (o : Offset) :
    accessOfBits (v ++ code ++ BitVec.ofBool dir ++ o) =
      { op := if dir then .write v else .read, size := sizeOfCode code, addr := o.toNat } := by
  have hdata : (v ++ code ++ BitVec.ofBool dir ++ o).extractLsb' 16 32 = v := by
    rw [extractLsb'_append_eq_of_le (by omega), extractLsb'_append_eq_of_le (by omega),
      extractLsb'_append_eq_of_le (by omega), extractLsb'_eq_self]
  have hcode : (v ++ code ++ BitVec.ofBool dir ++ o).extractLsb' 13 3 = code := by
    rw [extractLsb'_append_eq_of_le (by omega), extractLsb'_append_eq_of_le (by omega),
      extractLsb'_append_eq_of_add_le (by omega), extractLsb'_eq_self]
  have hdir : (v ++ code ++ BitVec.ofBool dir ++ o).extractLsb' 12 1 = BitVec.ofBool dir := by
    rw [extractLsb'_append_eq_of_le (by omega), extractLsb'_append_eq_of_add_le (by omega), extractLsb'_eq_self]
  have haddr : (v ++ code ++ BitVec.ofBool dir ++ o).extractLsb' 0 12 = o := by
    rw [extractLsb'_append_eq_of_add_le (by omega), extractLsb'_eq_self]
  rw [accessOfBits, hdata, hcode, hdir, haddr]
  cases dir <;> rfl

theorem sizeOfCode_codeOfSize (size : BusSize) : sizeOfCode (codeOfSize size) = size := by
  cases size <;> rfl

/-- The 48 bits of an access keep all of it but the address bits above the offset (R68). -/
theorem accessOfBits_bitsOfAccess (x : Access) :
    accessOfBits (bitsOfAccess x) = { x with addr := x.addr % 4096 } := by
  rw [bitsOfAccess]
  cases hop : x.op with
  | read => exact (accessOfBits_append 0#32 _ false _).trans (by simp [sizeOfCode_codeOfSize])
  | write v => exact (accessOfBits_append v _ true _).trans (by simp [sizeOfCode_codeOfSize])

/-- The decoder does not see the address bits above the offset (R68). -/
theorem decodeAccess_mod (x : Access) : decodeAccess { x with addr := x.addr % 4096 } = decodeAccess x := by
  have hoffset : accessOffset { x with addr := x.addr % 4096 } = accessOffset x :=
    BitVec.eq_of_toNat_eq (by simp)
  unfold decodeAccess busAccepts
  rw [hoffset]

/-- The table word of an encoding is decoded as the encoding. -/
theorem decodeTableWord_tableWordOfEncoded (e : Encoded) :
    decodeTableWord (tableWordOfEncoded e).1 (tableWordOfEncoded e).2 = some (decode e) := by
  cases e with
  | command w => simp [decodeTableWord, tableWordOfEncoded, encodedOfTableWord]
  | access x =>
    simp [decodeTableWord, tableWordOfEncoded, encodedOfTableWord, accessOfBits_bitsOfAccess, decode,
      decodeAccess_mod]

/-- A table word of any length but 32, by its four parts. -/
theorem decodeTableWord_layout {nbits a code : Nat} (dir : Bool) (v : Word) (hbits : nbits ≠ 32) (ha : a < 4096)
    (hcode : code < 8) :
    decodeTableWord nbits (0x1000 * dir.toNat + a + 0x2000 * code + 0x10000 * v.toNat) =
      some (decodeAccess { op := if dir then .write v else .read,
                           size := sizeOfCode (BitVec.ofNat 3 code), addr := a }) := by
  have hdir := dir.toNat_lt
  have hlayout : BitVec.ofNat 48 (0x1000 * dir.toNat + a + 0x2000 * code + 0x10000 * v.toNat) =
      v ++ BitVec.ofNat 3 code ++ BitVec.ofBool dir ++ BitVec.ofNat 12 a := by
    apply BitVec.eq_of_toNat_eq
    refine Eq.trans ?_ (toNat_append_fields _ _).symm
    rw [toNat_append_fields, toNat_append_fields, BitVec.toNat_ofBool]
    simp only [BitVec.toNat_ofNat]
    omega
  rw [decodeTableWord, encodedOfTableWord, if_neg hbits, hlayout, accessOfBits_append, BitVec.toNat_ofNat,
    Nat.mod_eq_of_lt ha, decode]

theorem sizeOfCode_ofNat {code : Nat} (hcode : code < 8) :
    sizeOfCode (BitVec.ofNat 3 code) =
      if code = 0 then .word else if code = 1 then .byte else if code = 2 then .half else .wider := by
  interval_cases code <;> rfl

/-- Settles O59: the two directions of `decodeTableWord_layout`. -/
theorem tableWordLayout : Obligations.TableWordLayout := by
  intro nbits a code v size hbits ha hcode hsize
  rw [hsize, ← sizeOfCode_ofNat hcode]
  constructor
  · simpa using decodeTableWord_layout false v hbits ha hcode
  · simpa using decodeTableWord_layout true v hbits ha hcode

/-! ### The lines of R97 -/

theorem busAccepts_iff_aligned (x : Access) : busAccepts x = true ↔ x.size = .word ∧ x.addr % 4 = 0 := by
  rw [busAccepts_iff, wordAligned, accessOffset_toNat, beq_iff_eq, Nat.mod_mod_of_dvd _ (by decide : 4 ∣ 4096)]

theorem windowIndex_eq {base : Nat} {a : Offset} {k : Fin 16} (h : a.toNat = base + 4 * k.val) :
    windowIndex base a = k := by
  rw [windowIndex, h, Nat.add_sub_cancel_left, Nat.mul_div_cancel_left _ (by decide), Fin.ofNat_val_eq_self]

/-- The lines of R97 for writes, on the offset as a number. -/
theorem decodeWrite_eq_ite (a : Offset) (v : Word) :
    decodeWrite a v =
      if a.toNat = 0x008 then .wrCmd v
      else if 0x040 ≤ a.toNat ∧ a.toNat ≤ 0x07C then .wrDigest (windowIndex 0x040 a) v
      else .wrIgnored a v := by
  simp only [decodeWrite, ← BitVec.toNat_inj]
  rfl

/-- The lines of R97 for reads, on the offset as a number. -/
theorem decodeRead_eq_ite (a : Offset) :
    decodeRead a =
      if a.toNat = 0x000 then .rdId
      else if a.toNat = 0x004 then .rdParam
      else if a.toNat = 0x008 then .rdCmd
      else if a.toNat = 0x00C then .rdStatus
      else if a.toNat = 0x010 then .rdCfgL
      else if a.toNat = 0x014 then .rdCfgN
      else if a.toNat = 0x018 then .rdShamt
      else if 0x040 ≤ a.toNat ∧ a.toNat ≤ 0x07C then .rdDigest (windowIndex 0x040 a)
      else if 0x080 ≤ a.toNat ∧ a.toNat ≤ 0x0BC then .rdResult (windowIndex 0x080 a)
      else .rdReserved a := by
  simp only [decodeRead, ← BitVec.toNat_inj]
  rfl

theorem decodeWrite_digest {a : Offset} {k : Fin 16} (h : a.toNat = 0x040 + 4 * k.val) (v : Word) :
    decodeWrite a v = .wrDigest k v := by
  rw [decodeWrite_eq_ite, if_neg (by omega), if_pos (by omega), windowIndex_eq h]

theorem decodeRead_digest {a : Offset} {k : Fin 16} (h : a.toNat = 0x040 + 4 * k.val) :
    decodeRead a = .rdDigest k := by
  rw [decodeRead_eq_ite, if_neg, if_neg, if_neg, if_neg, if_neg, if_neg, if_neg, if_pos, windowIndex_eq h]
  all_goals omega

theorem decodeRead_result {a : Offset} {k : Fin 16} (h : a.toNat = 0x080 + 4 * k.val) :
    decodeRead a = .rdResult k := by
  rw [decodeRead_eq_ite, if_neg, if_neg, if_neg, if_neg, if_neg, if_neg, if_neg, if_neg, if_pos, windowIndex_eq h]
  all_goals omega

/-- Past the single-word registers and off the two windows, a read is of a reserved offset (R204). -/
theorem decodeRead_reserved {a : Offset} (hreg : a.toNat ∉ registerOffsets)
    (hdigest : ¬ (0x040 ≤ a.toNat ∧ a.toNat ≤ 0x07C)) (hresult : ¬ (0x080 ≤ a.toNat ∧ a.toNat ≤ 0x0BC)) :
    decodeRead a = .rdReserved a := by
  simp only [registerOffsets, List.mem_cons, not_or] at hreg
  obtain ⟨h00, h04, h08, h0C, h10, h14, h18, -⟩ := hreg
  rw [decodeRead_eq_ite, if_neg h00, if_neg h04, if_neg h08, if_neg h0C, if_neg h10, if_neg h14, if_neg h18,
    if_neg hdigest, if_neg hresult]

/-- Settles O7: the lines of R97 at the offset of the access, and the 13-bit pattern by `tableWordLayout`. -/
theorem accessDecodedByDescriptor : Obligations.AccessDecodedByDescriptor := by
  refine ⟨fun a ha _ => ?_, fun x => ⟨fun hrefused => ?_, fun hsize haddr v hop => ?_, fun hsize haddr hop => ?_⟩⟩
  · obtain ⟨hread, hwrite⟩ := tableWordLayout 16 a 0 0#32 .word (by decide) ha (by decide) rfl
    exact ⟨by simpa using hread, 0#32, by simpa using hwrite⟩
  · refine decodeAccess_refused fun hacc => ?_
    obtain ⟨hsize, haddr⟩ := (busAccepts_iff_aligned x).1 hacc
    exact hrefused.elim (· hsize) (· haddr)
  · rw [decodeAccess_write ((busAccepts_iff_aligned x).2 ⟨hsize, haddr⟩) hop, ← accessOffset_toNat]
    exact ⟨fun h => by rw [decodeWrite_eq_ite, h]; rfl, fun _ h => decodeWrite_digest h v,
      fun hcmd hdigest => Machine.decodeWrite_eq_wrIgnored hcmd hdigest v⟩
  · rw [decodeAccess_read ((busAccepts_iff_aligned x).2 ⟨hsize, haddr⟩) hop, ← accessOffset_toNat]
    refine ⟨?_, ?_, ?_, ?_, ?_, ?_, ?_, fun _ h => decodeRead_digest h, fun _ h => decodeRead_result h,
      fun hpast hwindows => decodeRead_reserved ?_ (by omega) (by omega)⟩
    case refine_8 => simp only [registerOffsets, List.mem_cons, List.not_mem_nil, or_false]; omega
    all_goals
      intro h
      rw [decodeRead_eq_ite, h]
      rfl

/-! ### The round trip -/

theorem decode_encode_instrOfCommand {c : Command} (hc : (instrOfCommand c).wellFormed = true) :
    decode (encode (instrOfCommand c)) = instrOfCommand c := by
  obtain ⟨w, hencode, hnumber⟩ := encode_instrOfCommand c
  rw [hencode, decode, (decodeCommand_eq_iff hc).2 hnumber]

/-- An accepted write, by its offset. -/
theorem decode_wordWrite {a : Nat} {v : Word} (hacc : busAccepts (wordAccess (.write v) a) = true) :
    decode (.access (wordAccess (.write v) a)) = decodeWrite (BitVec.ofNat 12 a) v :=
  decodeAccess_write hacc rfl

/-- An accepted read, by its offset. -/
theorem decode_wordRead {a : Nat} (hacc : busAccepts (wordAccess .read a) = true) :
    decode (.access (wordAccess .read a)) = decodeRead (BitVec.ofNat 12 a) :=
  decodeAccess_read hacc rfl

/-- The offset of a word of a window has no bits above the twelve that are decoded. -/
theorem windowOffset_toNat (base : Nat) (k : Fin 16) (hbase : base ≤ 0x080) :
    (BitVec.ofNat 12 (base + 4 * k.val)).toNat = base + 4 * k.val := by
  rw [BitVec.toNat_ofNat, Nat.mod_eq_of_lt (by omega)]

theorem decode_encode {i : Instr} (hi : i.wellFormed = true) : decode (encode i) = i := by
  cases i with
  | setl l => exact decode_encode_instrOfCommand (c := .setl l) hi
  | setn nb => exact decode_encode_instrOfCommand (c := .setn nb) hi
  | illegalCmd w => exact decode_encode_instrOfCommand (c := .illegal w) hi
  | wrCmd w => exact decodeAccess_commandWrite w
  | wrDigest k v =>
    exact (decode_wordWrite (Laws.BusCheck.wrDigest k v hi)).trans
      (decodeWrite_digest (windowOffset_toNat _ k (by decide)) v)
  | rdDigest k =>
    exact (decode_wordRead (Laws.BusCheck.rdDigest k hi)).trans
      (decodeRead_digest (windowOffset_toNat _ k (by decide)))
  | rdResult k =>
    exact (decode_wordRead (Laws.BusCheck.rdResult k hi)).trans
      (decodeRead_result (windowOffset_toNat _ k (by decide)))
  | wrIgnored a v =>
    have hacc := Laws.BusCheck.wrIgnored a v hi
    simp only [Instr.wellFormed, Bool.and_eq_true, bne_iff_ne, Bool.not_eq_true', inDigestWindow] at hi
    obtain ⟨⟨-, hcmd⟩, hdigest⟩ := hi
    refine (decode_wordWrite hacc).trans ?_
    rw [BitVec.ofNat_toNat, BitVec.setWidth_eq]
    exact Machine.decodeWrite_eq_wrIgnored hcmd (by simpa using hdigest) v
  | rdReserved a =>
    have hacc := Laws.BusCheck.rdReserved a hi
    simp only [Instr.wellFormed, Bool.and_eq_true, Bool.not_eq_true', inDigestWindow, inResultWindow] at hi
    obtain ⟨⟨⟨-, hreg⟩, hdigest⟩, hresult⟩ := hi
    refine (decode_wordRead hacc).trans ?_
    rw [BitVec.ofNat_toNat, BitVec.setWidth_eq]
    exact decodeRead_reserved (by simpa using hreg) (by simpa using hdigest) (by simpa using hresult)
  | busErr op size a =>
    have hacc : ¬ busAccepts (accessOfEncoded (encode (.busErr op size a))) = true := by
      rw [Laws.BusCheck.busErr op size a hi]; exact Bool.false_ne_true
    refine (decodeAccess_refused hacc).trans ?_
    simp [accessOfEncoded, encode, accessOffset]
  | _ => rfl

/-- Settles O2: a table word is decoded as the encoding it spells, and decoding undoes the encoder. -/
theorem decodeEncodeRoundTrip : Obligations.DecodeEncodeRoundTrip := by
  intro i hi
  rw [decodeTableWord_tableWordOfEncoded, decode_encode hi]

/-- Settles O4: both decoders answer well-formed operations only. -/
theorem decodedIsWellFormed : Obligations.DecodedIsWellFormed := by
  intro nbits w
  refine ⟨_, rfl, ?_⟩
  cases encodedOfTableWord nbits w with
  | command w => exact decodeCommand_wellFormed w
  | access x => exact decodeAccess_wellFormed x

end Sys2Proof
end

section
/-! PROOFS. The host syntax (30_encoding.md R99, R100): SETL and SETN statements, and LDDIG. -/

namespace Sys2Proof.Assembler

open Sys2Proof.Machine

/-! ### Command statements -/

/-- The OR that R99 writes puts an operand below the OPC. -/
theorem toNat_or_operand {opc n : Nat} (hopc : opc < 2 ^ 8) (hn : n < 2 ^ 24) :
    (BitVec.ofNat 32 (2 ^ 24 * opc) ||| BitVec.ofNat 32 n).toNat = 2 ^ 24 * opc + n := by
  rw [BitVec.toNat_or, BitVec.toNat_ofNat, BitVec.toNat_ofNat, Nat.mod_eq_of_lt (by omega),
    Nat.mod_eq_of_lt (by omega), Nat.two_pow_add_eq_or_of_lt hn]

theorem decodeCommand_setlWord {l : Nat} (hl : l ≤ 65535) :
    decodeCommand (0x01000000#32 ||| BitVec.ofNat 32 l) = .setl (BitVec.ofNat 16 l) := by
  rw [decodeCommand_eq_iff rfl, commandNumber, BitVec.toNat_ofNat, Nat.mod_eq_of_lt (by omega)]
  exact toNat_or_operand (opc := 1) (by decide) (by omega)

theorem decodeCommand_setnWord {nb : Nat} (hnb : nb ≤ 255) :
    decodeCommand (0x02000000#32 ||| BitVec.ofNat 32 nb) = .setn (BitVec.ofNat 8 nb) := by
  rw [decodeCommand_eq_iff rfl, commandNumber, BitVec.toNat_ofNat, Nat.mod_eq_of_lt (by omega)]
  exact toNat_or_operand (opc := 2) (by decide) (by omega)

/-- Settles O56: the words decode back, and the two range checks decide the rest. -/
theorem statementsAssembleToTheirCommands : Obligations.StatementsAssembleToTheirCommands :=
  ⟨fun _ hl => ⟨_, if_pos hl, decodeCommand_setlWord hl⟩, fun _ hl => if_neg (Nat.not_le_of_lt hl),
    fun _ hnb => ⟨_, if_pos hnb, decodeCommand_setnWord hnb⟩, fun _ hnb => if_neg (Nat.not_le_of_lt hnb)⟩

/-! ### The words of a byte string -/

theorem length_packWords (bytes : List Byte) : (packWords bytes).length = (bytes.length + 3) / 4 := by
  fun_induction packWords bytes with
  | case5 a b c d rest ih => simp only [List.length_cons, ih]; omega
  | _ => simp

theorem length_digestWrites (k : Nat) (ws : List Word) : (digestWrites k ws).length = ws.length := by
  induction ws generalizing k with
  | nil => rfl
  | cons v ws ih => rw [digestWrites, List.length_cons, ih, List.length_cons]

/-- Byte `j` of a word, the most significant first (R38). -/
def wordByte (v : Word) (j : Nat) : Byte :=
  v.extractLsb' (24 - 8 * j) 8

theorem wordByte_append (a b c d : Byte) {j : Nat} (hj : j < 4) :
    wordByte (a ++ b ++ c ++ d) j = [a, b, c, d].getD j 0#8 := by
  have h0 : (a ++ b ++ c ++ d).extractLsb' 24 8 = a := by
    rw [BitVec.extractLsb'_append_eq_of_le (by omega), BitVec.extractLsb'_append_eq_of_le (by omega),
      BitVec.extractLsb'_append_eq_of_le (by omega), BitVec.extractLsb'_eq_self]
  have h1 : (a ++ b ++ c ++ d).extractLsb' 16 8 = b := by
    rw [BitVec.extractLsb'_append_eq_of_le (by omega), BitVec.extractLsb'_append_eq_of_le (by omega),
      BitVec.extractLsb'_append_eq_of_add_le (by omega), BitVec.extractLsb'_eq_self]
  have h2 : (a ++ b ++ c ++ d).extractLsb' 8 8 = c := by
    rw [BitVec.extractLsb'_append_eq_of_le (by omega), BitVec.extractLsb'_append_eq_of_add_le (by omega),
      BitVec.extractLsb'_eq_self]
  have h3 : (a ++ b ++ c ++ d).extractLsb' 0 8 = d := by
    rw [BitVec.extractLsb'_append_eq_of_add_le (by omega), BitVec.extractLsb'_eq_self]
  interval_cases j
  exacts [h0, h1, h2, h3]

/-- The words one at a time, the padding of the last one (R100) as what `getD` gives past the end. -/
theorem packWords_of_ne_nil {bytes : List Byte} (h : bytes ≠ []) :
    packWords bytes =
      (bytes.getD 0 0#8 ++ bytes.getD 1 0#8 ++ bytes.getD 2 0#8 ++ bytes.getD 3 0#8) ::
        packWords (bytes.drop 4) := by
  match bytes with
  | [] => exact absurd rfl h
  | [_] | [_, _] | [_, _, _] | _ :: _ :: _ :: _ :: _ => rfl

/-- Byte `j` of word `n` is byte `4n + j` of the string, and 0 past its end (R100). -/
theorem wordByte_packWords {bytes : List Byte} {n j : Nat} {v : Word} (hj : j < 4)
    (hv : (packWords bytes)[n]? = some v) : wordByte v j = bytes.getD (4 * n + j) 0#8 := by
  have hbytes : bytes ≠ [] := by
    rintro rfl
    cases hv
  rw [packWords_of_ne_nil hbytes] at hv
  cases n with
  | zero =>
    rw [← Option.some.inj hv, wordByte_append _ _ _ _ hj]
    interval_cases j <;> rfl
  | succ n =>
    rw [wordByte_packWords hj hv, List.getD_eq_getElem?_getD, List.getElem?_drop,
      ← List.getD_eq_getElem?_getD, show 4 + (4 * n + j) = 4 * (n + 1) + j by omega]

/-! ### The writes of LDDIG -/

/-- What writing one word to DIGEST_k leaves (R193). -/
def loadWord (k : Nat) (v : Word) (s : State) : State :=
  respond .okay { writeDigestWord (Fin.ofNat 16 k) v s with resultValid := false }

/-- What writing words to DIGEST_k, DIGEST_(k+1) and so on leaves. -/
def loadWords : Nat → List Word → State → State
  | _, [], s => s
  | k, v :: ws, s => loadWords (k + 1) ws (loadWord k v s)

theorem ofNat_sixteen_val {k : Nat} (hk : k < 16) : (Fin.ofNat 16 k).val = k := Nat.mod_eq_of_lt hk

theorem decodeAccess_digestWrite {k : Nat} (hk : k < 16) (v : Word) :
    decodeAccess (wordAccess (.write v) (0x040 + 4 * k)) = .wrDigest (Fin.ofNat 16 k) v := by
  rw [← decode_encode (i := .wrDigest (Fin.ofNat 16 k) v) rfl, encode, ofNat_sixteen_val hk, decode]

/-- The first of the writes is one step, which leaves the others. -/
theorem step_digestWrites {k : Nat} (hk : k < 16) (v : Word) (ws : List Word) (s : State) :
    step (s.withEvents ((digestWrites k (v :: ws)).map fun o => .access o.access)) =
      .next ((loadWord k v s).withEvents ((digestWrites (k + 1) ws).map fun o => .access o.access)) := by
  refine (step_access rfl).trans ?_
  rw [wrOp, decodeAccess_digestWrite hk]
  rfl

theorem runSteps_digestWrites {k : Nat} {ws : List Word} (hfit : k + ws.length ≤ 16) (s : State) :
    runSteps ws.length (s.withEvents ((digestWrites k ws).map fun o => .access o.access)) =
      .next ((loadWords k ws s).withEvents []) := by
  induction ws generalizing k s with
  | nil => rfl
  | cons v ws ih =>
    rw [List.length_cons] at hfit
    rw [List.length_cons, runSteps, step_digestWrites (by omega)]
    exact ih (by omega) _

theorem readDigestByte_loadWord {k : Nat} (hk : k < 16) (v : Word) (s : State) (i : Fin 64) :
    readDigestByte (loadWord k v s) i =
      if i.val / 4 = k then wordByte v (i.val % 4) else readDigestByte s i := by
  refine (readDigestByte_writeDigestWord (Fin.ofNat 16 k) v s i).trans ?_
  rw [ofNat_sixteen_val hk, wordByte]

/-- The bytes of the words not written are kept. -/
theorem readDigestByte_loadWords_outside {k : Nat} {ws : List Word} (hfit : k + ws.length ≤ 16) (s : State)
    {i : Fin 64} (hi : i.val / 4 < k ∨ k + ws.length ≤ i.val / 4) :
    readDigestByte (loadWords k ws s) i = readDigestByte s i := by
  induction ws generalizing k s with
  | nil => rfl
  | cons v ws ih =>
    rw [List.length_cons] at hfit hi
    rw [loadWords, ih (by omega) _ (by omega), readDigestByte_loadWord (by omega), if_neg (by omega)]

/-- The bytes of the word numbered `n` of those written are its own: no later write reaches them. -/
theorem readDigestByte_loadWords_inside {k n : Nat} {ws : List Word} (hfit : k + ws.length ≤ 16) (s : State)
    {i : Fin 64} (hi : i.val / 4 = k + n) {v : Word} (hv : ws[n]? = some v) :
    readDigestByte (loadWords k ws s) i = wordByte v (i.val % 4) := by
  induction ws generalizing k n s with
  | nil => cases hv
  | cons u ws ih =>
    rw [List.length_cons] at hfit
    rw [loadWords]
    cases n with
    | zero =>
      obtain rfl : u = v := Option.some.inj hv
      rw [readDigestByte_loadWords_outside (by omega) _ (by omega), readDigestByte_loadWord (by omega),
        if_pos (by omega)]
    | succ n => exact ih (by omega) _ (by omega) hv

/-- The writes change no register but DIGEST and RESULT_VALID, which they clear if there is one. -/
theorem loadWords_frame (k : Nat) (ws : List Word) (s : State) :
    loadWords k ws s = { s with
      digest := (loadWords k ws s).digest
      resultValid := ws.isEmpty && s.resultValid
      response := (loadWords k ws s).response } := by
  induction ws generalizing k s with
  | nil => rfl
  | cons v ws ih =>
    rw [loadWords]
    refine (ih _ _).trans ?_
    simp [loadWord]

/-- LDDIG from the string's side: what it leaves in byte `i`, for every byte of the words it writes. -/
theorem readDigestByte_lddig {bytes : List Byte} (hlen : bytes.length ≤ 64) (s : State) {i : Fin 64}
    (hi : i.val < 4 * (packWords bytes).length) :
    readDigestByte (loadWords 0 (packWords bytes) s) i = bytes.getD i.val 0#8 := by
  have hword : i.val / 4 < (packWords bytes).length := by omega
  have hfit : 0 + (packWords bytes).length ≤ 16 := by rw [length_packWords]; omega
  rw [readDigestByte_loadWords_inside hfit s (Nat.zero_add _).symm (List.getElem?_eq_getElem hword),
    wordByte_packWords (Nat.mod_lt _ (by decide)) (List.getElem?_eq_getElem hword), Nat.div_add_mod]

theorem packWords_eq_nil_iff (bytes : List Byte) : packWords bytes = [] ↔ bytes = [] := by
  rw [← List.length_eq_zero_iff, ← List.length_eq_zero_iff, length_packWords]
  omega

/-- Settles O57: LDDIG is the writes of its packed words from DIGEST0 up. -/
theorem lddigLoadsTheDigest : Obligations.LddigLoadsTheDigest := by
  intro bytes s hlen
  have hwords := length_packWords bytes
  have hops : (digestWrites 0 (packWords bytes)).length = (packWords bytes).length := length_digestWrites _ _
  have hfit : 0 + (packWords bytes).length ≤ 16 := by omega
  refine ⟨_, (loadWords 0 (packWords bytes) s).withEvents [], if_pos hlen, hops.trans hwords, ?_, ?_, ?_, ?_, ?_⟩
  · rw [hops]; exact runSteps_digestWrites hfit s
  · intro i b hb
    obtain ⟨hi, -⟩ := List.getElem?_eq_some_iff.1 hb
    exact (readDigestByte_lddig hlen s (by omega)).trans (by simp [hb])
  · intro i hpast hi
    exact (readDigestByte_lddig hlen s (by omega)).trans (by simp [hpast])
  · intro i hi
    exact readDigestByte_loadWords_outside hfit s (by omega)
  · have hclear : (packWords bytes).isEmpty = bytes.isEmpty := by
      rw [Bool.eq_iff_iff, List.isEmpty_iff, List.isEmpty_iff, packWords_eq_nil_iff]
    rw [loadWords_frame, hclear]
    refine ⟨rfl, rfl, rfl, rfl, rfl, rfl, rfl, rfl, fun h => ?_, fun h => ?_, rfl, rfl⟩
    · simp [h]
    · simp [h]

end Sys2Proof.Assembler
end

section
/-! PROOFS. The configuration commands SETL and SETN (40_configuration.md R121 to R127), and what a rejected length
keeps from happening (R222). -/

namespace Sys2Proof.Machine

/-! ### SETL and SETN -/

/-- Settles O14: a nonzero length fails the guard of the rejection. -/
theorem setlConfiguresLegalLength : Obligations.SetlConfiguresLegalLength :=
  fun _ _ hl => if_neg hl

/-- Settles O16: an accepted length passes the guard, and fits the 7 bits of DLEN. -/
theorem setnConfiguresLegalLength : Obligations.SetnConfiguresLegalLength :=
  fun nb _ hnb => ⟨nb.setWidth 7, toNat_setWidth_seven hnb, if_pos hnb⟩

/-- Settles O17: a longer length fails the guard, and the error is all that is left. -/
theorem setnRejectsLongDigest : Obligations.SetnRejectsLongDigest :=
  fun _ _ hnb => if_neg (Nat.not_le_of_lt hnb)

/-! ### No conversion while unconfigured -/

/-- A command that finds no configuration converts nothing: CLEAR alone writes RESULT, and it writes 0. -/
theorem CommandEffect.result_of_unconfigured {c : Command} {s t : State} (h : CommandEffect s c t)
    (hs : s.cfgValid = false) : t.result = s.result ∨ t.result = 0#512 := by
  cases h with
  | convert hv => exact absurd hv (Bool.eq_false_iff.1 hs)
  | clear => exact .inr rfl
  | _ => exact .inl rfl

/-- Of the other events, a reset alone writes RESULT, and it writes 0 (R48). -/
theorem EventEffect.result_of_unconfigured {s t : State} {e : HostEvent} (h : EventEffect s e t)
    (hs : s.cfgValid = false) : t.result = s.result ∨ t.result = 0#512 := by
  cases h with
  | reset => exact .inr rfl
  | command r _ _ hu => exact hu.result_of_unconfigured hs
  | digestWrite _ => exact .inl rfl
  | answer r _ _ => exact .inl rfl

/-- Nothing has been converted since RESULT was `r`, and no event to come configures the length a CONVERT needs. -/
structure NoConversionSince (r : BitVec 512) (s : State) : Prop where
  no_length_comes : NoLengthComes s
  result_kept : s.result = r ∨ s.result = 0#512

theorem step_keeps_noConversionSince (r : BitVec 512) (s t : State) (h : NoConversionSince r s)
    (hstep : step s = .next t) : NoConversionSince r t := by
  refine ⟨step_keeps_noLengthComes s t h.no_length_comes hstep, ?_⟩
  rcases step_effect_cases hstep with ⟨-, rfl⟩ | ⟨e, rest, -, heff⟩
  · exact h.result_kept
  · rcases heff.result_of_unconfigured h.no_length_comes.unconfigured with hsame | hzero
    · rw [hsame]; exact h.result_kept
    · exact .inr hzero

/-- Settles O15: SETL 0 takes the branch of the rejection, and no event of the run sets CFG_VALID, without which no
CONVERT writes RESULT. -/
theorem noConversionAfterZeroLength : Obligations.NoConversionAfterZeroLength := by
  refine ⟨fun _ => rfl, fun k s t hs hpending hrun => ?_⟩
  have hstart : NoConversionSince s.result s := ⟨⟨hs, hpending⟩, .inl rfl⟩
  have hend := runSteps_induction (step_keeps_noConversionSince s.result) k hstart hrun
  have hunconfigured := hend.no_length_comes.unconfigured
  exact ⟨hunconfigured, hend.result_kept, execConvert_unconfigured hunconfigured⟩

end Sys2Proof.Machine
end

section
/-! PROOFS. What CONVERT computes (41_convert.md R141 to R153): the two cases of `n` and `L`, the bits and the bounds
of RESULT, and the extreme inputs. `n` is `8 * DLEN` and `L` is CFG_L throughout. -/

namespace Sys2Proof.Machine

/-! ### The bytes of the digest -/

theorem digestBytes_getElem? {s : State} {i : Fin 64} (h : i.val < s.dlen.toNat) :
    (digestBytes s)[i.val]? = some (readDigestByte s i) := by
  simp [digestBytes, readDigestByte, h]

theorem exists_readDigestByte_of_mem {s : State} {b : Byte} (h : b ∈ digestBytes s) :
    ∃ i : Fin 64, i.val < s.dlen.toNat ∧ readDigestByte s i = b := by
  obtain ⟨i, hi, rfl⟩ := List.mem_take_iff_getElem.1 h
  obtain ⟨hlen, hbuf⟩ := lt_min_iff.1 hi
  exact ⟨⟨i, by simpa using hbuf⟩, hlen, by simp [readDigestByte]⟩

/-! ### Bits and bounds of the conversion -/

theorem digestValue_testBit {s : State} (hn : s.dlen.toNat ≤ 64) {b : Nat} (hb : b < 8 * s.dlen.toNat)
    {i : Fin 64} (hi : i.val = s.dlen.toNat - 1 - b / 8) :
    (digestValue s).testBit b = (readDigestByte s i).getLsbD (b % 8) := by
  have hbyte := digestBytes_getElem? (s := s) (i := i) (by omega)
  have hlen := digestBytes_length hn
  rw [digestValue, beValue_testBit _ _ (hlen.symm ▸ hb), hlen, ← hi, List.getD_eq_getElem?_getD, hbyte]
  rfl

/-- A CONVERT keeps the bits of the digest's value from `n - L` up, moved down to bit 0. -/
theorem convertResult_getLsbD {s : State} (hn : s.dlen.toNat ≤ 64) (j : Nat) :
    (convertResult s).getLsbD j = (digestValue s).testBit (8 * s.dlen.toNat - s.cfgL.toNat + j) := by
  rw [BitVec.getLsbD, convertResult_toNat hn, Nat.testBit_div_two_pow, Nat.add_comm]

/-- A value of `n` bits loses `n - L` of them to the shift, which leaves `min(n, L)` (R141). -/
theorem convertResult_lt {s : State} (hn : s.dlen.toNat ≤ 64) :
    (convertResult s).toNat < 2 ^ min (8 * s.dlen.toNat) s.cfgL.toNat := by
  rw [convertResult_toNat hn]
  refine Nat.div_lt_of_lt_mul ?_
  rw [← pow_add, show 8 * s.dlen.toNat - s.cfgL.toNat + min (8 * s.dlen.toNat) s.cfgL.toNat =
    8 * s.dlen.toNat by omega]
  exact digestValue_lt hn

theorem convertResult_getLsbD_of_min_le {s : State} (hn : s.dlen.toNat ≤ 64) {j : Nat}
    (hj : min (8 * s.dlen.toNat) s.cfgL.toNat ≤ j) : (convertResult s).getLsbD j = false :=
  Nat.testBit_lt_two_pow ((convertResult_lt hn).trans_le (Nat.pow_le_pow_right two_pos hj))

/-! ### A digest of at most `L` bits, and a longer one -/

theorem exec_convert_short {s : State} (hs : s.cfgValid = true) (h : 8 * s.dlen.toNat ≤ s.cfgL.toNat) :
    exec .convert s = .next { s with
      result := convertResult s, shamt := 0#10, shifted := false, resultValid := true } := by
  have hshamt : convertShamt s = 0#10 := if_neg (Nat.not_lt.2 h)
  have hshifted : convertShifted s = false :=
    Bool.eq_false_iff.2 fun hlt => Nat.not_lt.2 h ((convertShifted_iff s).1 hlt)
  rw [exec_convert_configured hs, hshamt, hshifted]

/-- Settles O18: a shift by `n - L = 0` bits divides by 1. -/
theorem convertPassesShortDigestThrough : Obligations.ConvertPassesShortDigestThrough := by
  intro s hs hn h
  refine ⟨convertResult s, ?_, exec_convert_short hs h⟩
  rw [convertResult_toNat hn, Nat.sub_eq_zero_of_le h, pow_zero, Nat.div_one]
  rfl

/-- Settles O19, from the exact values of RESULT and SHAMT. -/
theorem convertShiftsLongDigest : Obligations.ConvertShiftsLongDigest := by
  intro s hs hn h
  refine ⟨convertResult s, convertShamt s, convertResult_toNat hn, convertShamt_toNat hn, ?_⟩
  rw [exec_convert_configured hs, (convertShifted_iff s).2 h]

/-- Settles O20: bit `j` of RESULT is bit `n - L + j` of the digest's value, which lies in one byte of DIGEST. -/
theorem truncationBitByBit : Obligations.TruncationBitByBit := by
  intro s hs hn h
  refine ⟨_, exec_convert_configured hs, ?_, ?_⟩
  · rintro j b hj rfl i hi
    exact (convertResult_getLsbD hn j).trans (digestValue_testBit hn (by omega) hi)
  · exact fun j hj => convertResult_getLsbD_of_min_le hn (min_le_of_right_le hj)

/-- Settles O21: `2^min(n, L)` is at most `2^L` and at most `2^n`. -/
theorem convertResultIsBounded : Obligations.ConvertResultIsBounded := by
  intro s hs hn
  have hlt := convertResult_lt hn
  exact ⟨_, exec_convert_configured hs,
    hlt.trans_le (Nat.pow_le_pow_right two_pos (min_le_right _ _)),
    hlt.trans_le (Nat.pow_le_pow_right two_pos (min_le_left _ _)),
    fun _ hj => convertResult_getLsbD_of_min_le hn hj⟩

/-! ### Extreme inputs -/

theorem beValue_eq_zero {d : List Byte} (h : ∀ b ∈ d, b = 0#8) : beValue d = 0 := by
  induction d with
  | nil => rfl
  | cons b rest ih =>
    obtain ⟨hb, hrest⟩ := List.forall_mem_cons.1 h
    simp [beValue, hb, ih hrest]

/-- A digest of zeros, and so the empty one, converts to 0 whatever the shift. -/
theorem convertResult_eq_zero {s : State} (h : ∀ i : Fin 64, i.val < s.dlen.toNat → readDigestByte s i = 0#8) :
    convertResult s = 0#512 := by
  have hD : digestValue s = 0 := beValue_eq_zero fun b hb => by
    obtain ⟨i, hi, rfl⟩ := exists_readDigestByte_of_mem hb
    exact h i hi
  unfold convertResult
  split <;> simp [hD]

/-- The bytes after the first are the remainder. -/
theorem beValue_cons_div (b : Byte) (rest : List Byte) :
    beValue (b :: rest) / 2 ^ (8 * rest.length) = b.toNat := by
  rw [beValue, Nat.mul_comm, Nat.mul_add_div (Nat.two_pow_pos _), Nat.div_eq_of_lt (beValue_lt rest), Nat.add_zero]

theorem digestValue_div_first {s : State} (hpos : 1 ≤ s.dlen.toNat) (hn : s.dlen.toNat ≤ 64) :
    digestValue s / 2 ^ (8 * (s.dlen.toNat - 1)) = (readDigestByte s 0).toNat := by
  have hlen := digestBytes_length hn
  have hfirst := digestBytes_getElem? (s := s) (i := 0) hpos
  rw [digestValue]
  cases hd : digestBytes s with
  | nil => simp [hd] at hfirst
  | cons b rest =>
    obtain rfl : b = readDigestByte s 0 := by simpa [hd] using hfirst
    rw [← hlen, hd, List.length_cons, Nat.add_sub_cancel]
    exact beValue_cons_div _ rest

/-- Settles O23: the empty digest has no byte that could be nonzero, and with `L = 1` the shift leaves bit 7 of the
first byte. -/
theorem extremeShifts : Obligations.ExtremeShifts := by
  refine ⟨fun s hs hempty => ?_, fun s hs hL hpos hn => ?_, fun s hs hzero => ?_⟩
  · have hdlen : s.dlen.toNat = 0 := congrArg BitVec.toNat hempty
    rw [exec_convert_short hs (by omega), convertResult_eq_zero fun i hi => by omega]
  · have hone : s.cfgL.toNat = 1 := congrArg BitVec.toNat hL
    refine ⟨_, exec_convert_configured hs, (convertShamt_toNat hn).trans (by rw [hone]), ?_⟩
    calc (convertResult s).toNat
        = digestValue s / 2 ^ (8 * (s.dlen.toNat - 1) + 7) := by
          rw [convertResult_toNat hn, show 8 * s.dlen.toNat - s.cfgL.toNat = 8 * (s.dlen.toNat - 1) + 7 by omega]
      _ = (readDigestByte s 0).toNat / 2 ^ 7 := by
          rw [pow_add, ← Nat.div_div_eq_div_mul, digestValue_div_first hpos hn]
  · exact ⟨_, exec_convert_configured hs, convertResult_eq_zero hzero, convertShifted_iff s⟩

/-! ### CONVERT again -/

/-- Settles O24: the guard and the conversion functions read none of the five fields, a command performed on what it
left keeps it, and a valid result is the conversion of the current inputs (R42). -/
theorem convertTwiceIsOnce : Obligations.ConvertTwiceIsOnce := by
  refine ⟨fun s b e k r c hs => ?_, fun s b e k r c hs => ?_, fun s t h => ?_, fun s hinv hvalid => ?_⟩
  · exact ⟨_, exec_convert_configured hs, exec_convert_configured hs⟩
  · exact ⟨_, execConvert_unconfigured hs, execConvert_unconfigured hs⟩
  · exact (commandEffect_of_performCommand (c := .convert) h).performCommand_again t.response
  · obtain ⟨hs, hresult, hshamt, hshifted⟩ := hinv.valid_result hvalid
    rw [exec_convert_configured hs, ← hresult, ← hshamt, ← hshifted, ← hvalid]

end Sys2Proof.Machine
end

section
/-! PROOFS. The control commands NOP and CLEAR (42_control.md R170, R172). -/

namespace Sys2Proof.Machine

/-! ### NOP -/

/-- Of the words with OPC = 0x00, one is NOP and the others are illegal: an operand in 23:0 puts no word with this OPC
in another row of R94. -/
theorem decodeCommand_of_opc_zero {w : Word} (hopc : w.toNat / 2 ^ 24 = 0) :
    decodeCommand w = if w.toNat % 2 ^ 24 = 0 then .nop else .illegal w := by
  split
  · next hzero => exact (decodeCommand_eq_iff rfl).2 (show w.toNat = 0 by omega)
  · next hoperand => exact (decodeCommand_eq_illegal_iff w).2 ((illegalCmd_wellFormed_iff w).2 (by omega))

/-- Settles O26: the two decodings of OPC = 0x00, and R95 for a write of the illegal ones to CMD. -/
theorem nopChangesNothing : Obligations.NopChangesNothing := by
  refine ⟨fun _ => rfl, fun w hopc => ?_, fun w s hopc hoperand => ?_⟩
  · rw [decode, decodeCommand_of_opc_zero hopc, apply_ite instrOfCommand]; rfl
  · have hillegal : decodeCommand w = .illegal w := (decodeCommand_of_opc_zero hopc).trans (if_neg hoperand)
    obtain ⟨-, -, hwrite⟩ := illegalWordsRaiseIllegalCmd w s
    exact hwrite hillegal

/-! ### CLEAR -/

/-- A command other than CLEAR keeps ERR and ERRCODE, or it raises an error (R224, R233). -/
theorem CommandEffect.errorBits {c : Command} {s t : State} (h : CommandEffect s c t) (hc : c ≠ .clear) :
    (t.err = s.err ∧ t.errcode = s.errcode) ∨ (t.err = true ∧ t.errcode ≠ 0#4) := by
  cases h with
  | clear => exact absurd rfl hc
  | setlZero | setnLong _ | convertUnconfigured _ | illegal _ => exact .inr ⟨rfl, by simp [errCodeBits]⟩
  | nop | setl _ | setn _ | convert _ => exact .inl ⟨rfl, rfl⟩

/-- Only CLEAR acknowledges an error (R172, R233). -/
theorem CommandEffect.eq_clear_of_acknowledged {c : Command} {s t : State} (h : CommandEffect s c t)
    (hack : (s.err = true ∧ t.err = false) ∨ (s.errcode ≠ 0#4 ∧ t.errcode = 0#4)) : c = .clear := by
  by_contra hc
  rcases h.errorBits hc with ⟨herr, hcode⟩ | ⟨herr, hcode⟩ <;> simp [herr, hcode] at hack

theorem exec_clear (s : State) :
    exec .clear s = .next { acknowledgeErrors (zeroDigest s) with
      result := 0#512, shamt := 0#10, resultValid := false, shifted := false } := rfl

/-- Settles O27: the other commands acknowledge no error, and what CLEAR zeroes does not hold the configuration, so
a CONVERT after it still finds none. -/
theorem clearZeroesDataAndStatus : Obligations.ClearZeroesDataAndStatus := by
  refine ⟨fun c s t h => ?_, fun s => ⟨_, exec_clear s, readDigestByte_zeroDigest s, rfl, fun hs => ?_⟩⟩
  · rw [exec_instrOfCommand] at h
    exact (commandEffect_of_performCommand h).eq_clear_of_acknowledged
  · exact execConvert_unconfigured hs

end Sys2Proof.Machine
end

section
/-! PROOFS. The host's accesses (43_host_access.md R190 to R205): what a write to CMD, to DIGEST and elsewhere does,
what every read answers, and the refused access. -/

namespace Sys2Proof.Machine

/-! ### Writes -/

/-- Settles O28: both sides perform the command that the word decodes to, and the write adds the OKAY. -/
theorem cmdWritePerformsCommand : Obligations.CmdWritePerformsCommand := by
  intro w s
  obtain ⟨t, ht⟩ := performCommand_total (decodeCommand w) s
  exact ⟨t, (exec_instrOfCommand _ s).trans ht, exec_wrCmd ht⟩

/-- Byte `j` of the word just written to DIGEST_k (R38, R193). -/
theorem readDigestByte_writeDigestWord_digestIndex (k : Fin 16) (j : Fin 4) (v : Word) (s : State) :
    readDigestByte (writeDigestWord k v s) (digestIndex k j) = v.extractLsb' (24 - 8 * j.val) 8 := by
  have hword : (digestIndex k j).val / 4 = k.val := by simp only [digestIndex]; omega
  have hbyte : (digestIndex k j).val % 4 = j.val := by simp only [digestIndex]; omega
  rw [readDigestByte_writeDigestWord, if_pos hword, hbyte]

/-- The same byte as a number, by its place in the buffer. -/
theorem readDigestByte_writeDigestWord_toNat {k : Fin 16} {i : Fin 64} (j : Fin 4) (hi : i.val = 4 * k.val + j.val)
    (v : Word) (s : State) :
    (readDigestByte (writeDigestWord k v s) i).toNat = v.toNat / 2 ^ (24 - 8 * j.val) % 2 ^ 8 := by
  obtain rfl : i = digestIndex k j := Fin.ext hi
  rw [readDigestByte_writeDigestWord_digestIndex, BitVec.extractLsb'_toNat, Nat.shiftRight_eq_div_pow]

/-- DIGEST_k reads back the word written to it: its four bytes, side by side, are the word (R202). -/
theorem readDigestWord_writeDigestWord (k : Fin 16) (v : Word) (s : State) :
    readDigestWord (writeDigestWord k v s) k = v := by
  have htwo : v.extractLsb' 24 8 ++ v.extractLsb' 16 8 = v.extractLsb' 16 16 :=
    BitVec.extractLsb'_append_extractLsb'_eq_extractLsb' rfl
  have hthree : v.extractLsb' 16 16 ++ v.extractLsb' 8 8 = v.extractLsb' 8 24 :=
    BitVec.extractLsb'_append_extractLsb'_eq_extractLsb' rfl
  have hfour : v.extractLsb' 8 24 ++ v.extractLsb' 0 8 = v :=
    (BitVec.extractLsb'_append_extractLsb'_eq_extractLsb' rfl).trans BitVec.extractLsb'_eq_self
  calc readDigestWord (writeDigestWord k v s) k
      = v.extractLsb' 24 8 ++ v.extractLsb' 16 8 ++ v.extractLsb' 8 8 ++ v.extractLsb' 0 8 := by
        simp only [readDigestWord, readDigestByte_writeDigestWord_digestIndex]; rfl
    _ = v := by rw [htwo, hthree, hfour]

/-- Settles O29: the stored bytes one by one, the bytes of the other words, and the read of the four together. -/
theorem digestWriteStoresFourBytes : Obligations.DigestWriteStoresFourBytes := by
  intro k v s
  have hstored (i : Fin 64) (j : Fin 4) (hi : i.val = 4 * k.val + j.val) :=
    readDigestByte_writeDigestWord_toNat j hi v s
  refine ⟨_, exec_wrDigest k v s, fun i => ⟨fun hi => ?_, hstored i 1, hstored i 2, fun hi => ?_, fun hi => ?_⟩,
    rfl, ?_⟩
  · have htop : v.toNat / 2 ^ 24 < 2 ^ 8 := by omega
    exact (hstored i 0 hi).trans (Nat.mod_eq_of_lt htop)
  · exact (hstored i 3 hi).trans (congrArg (· % 2 ^ 8) (Nat.div_one v.toNat))
  · exact (readDigestByte_writeDigestWord k v s i).trans (if_neg (by omega))
  · exact congrArg (answerRead · _) (readDigestWord_writeDigestWord k v s)

/-- Settles O30: such an offset is in no row of R97 before WR_IGNORED. -/
theorem otherWritesAreIgnored : Obligations.OtherWritesAreIgnored := by
  refine ⟨fun _ _ _ => rfl, fun a v s rest hlt ha hcmd hdigest hp => ?_⟩
  rw [← Nat.mod_eq_of_lt hlt] at hcmd hdigest
  exact (step_access hp).trans (exec_ignoredWrite (busAccepts_of_aligned rfl ha) rfl hcmd hdigest _)

/-! ### Reads -/

/-- Settles O36, by the lines of R97 for reads against the register map (`exec_decodeRead`). -/
theorem readsFollowRegisterMap : Obligations.ReadsFollowRegisterMap :=
  fun _ _ _ => step_alignedRead

/-- Settles O31: none of the four reads looks at the state. -/
theorem constantReads : Obligations.ConstantReads :=
  fun _ => ⟨rfl, rfl, rfl, fun _ => rfl⟩

/-- The flags, in the order of R28. -/
theorem statusWord_flags (s : State) :
    (statusWord s).getLsbD 0 = s.cfgValid ∧ (statusWord s).getLsbD 1 = s.resultValid ∧
      (statusWord s).getLsbD 2 = s.shifted ∧ (statusWord s).getLsbD 3 = s.err := by
  simp only [statusWord, flagBit, BitVec.getLsbD_setWidth, BitVec.getLsbD_append]
  simp

/-- ERRCODE above four reserved bits and the four flags, as a number (R28). -/
theorem statusWord_toNat (s : State) :
    (statusWord s).toNat = s.errcode.toNat * 2 ^ 8 +
      (s.err.toNat * 2 ^ 3 + s.shifted.toNat * 2 ^ 2 + s.resultValid.toNat * 2 + s.cfgValid.toNat) := by
  rw [statusWord, BitVec.toNat_setWidth_of_le (by decide)]
  simp only [flagBit, toNat_append_fields, BitVec.toNat_ofBool, BitVec.toNat_ofNat]
  omega

/-- ERRCODE, and the reserved bits below and above it (R28, R198). -/
theorem statusWord_errcode (s : State) :
    (statusWord s).extractLsb' 4 4 = 0#4 ∧ (statusWord s).extractLsb' 8 4 = s.errcode ∧
      (statusWord s).extractLsb' 12 20 = 0#20 := by
  have hcode := s.errcode.isLt
  have herr := s.err.toNat_lt
  have hshifted := s.shifted.toNat_lt
  have hresult := s.resultValid.toNat_lt
  have hcfg := s.cfgValid.toNat_lt
  simp only [← BitVec.toNat_inj, BitVec.extractLsb'_toNat, Nat.shiftRight_eq_div_pow, statusWord_toNat,
    BitVec.toNat_ofNat]
  omega

/-- Settles O32: the fields of `statusWord`, which is what RD_STATUS answers. -/
theorem statusReadLayout : Obligations.StatusReadLayout := by
  intro s
  obtain ⟨hcfg, hresult, hshifted, herr⟩ := statusWord_flags s
  exact ⟨statusWord s, rfl, hcfg, hresult, hshifted, herr, statusWord_errcode s⟩

/-- Settles O33: each register is narrower than the word it is read in. -/
theorem configurationReadsZeroExtend : Obligations.ConfigurationReadsZeroExtend :=
  fun _ => ⟨_, _, _, rfl, BitVec.toNat_setWidth_of_le (by decide), rfl, BitVec.toNat_setWidth_of_le (by decide), rfl,
    BitVec.toNat_setWidth_of_le (by decide)⟩

/-! ### The refused access -/

/-- A step on an access of another size or alignment fails the bus check, the first of the checks (R229). -/
theorem step_refused {s : State} {x : Access} {rest : List HostEvent} (hp : s.pending = .access x :: rest)
    (hrefused : x.size ≠ .word ∨ x.addr % 4 ≠ 0) :
    step s = .next { s with pending := rest, response := .busErr } := by
  have hacc : ¬ busAccepts x = true := by
    rw [busAccepts_iff_aligned]
    exact fun ⟨hsize, haddr⟩ => hrefused.elim (· hsize) (· haddr)
  exact (step_access hp).trans (exec_refused hacc _)

/-- Settles O37: BUSERR only answers, and `step_refused` is the step. -/
theorem refusedAccessChangesNothing : Obligations.RefusedAccessChangesNothing :=
  ⟨fun _ _ _ _ => rfl, fun _ _ _ => step_refused⟩

end Sys2Proof.Machine
end

section
/-! PROOFS. The errors (60_exceptions.md R224 to R229): what a failing command leaves, and the order of the checks. -/

namespace Sys2Proof.Machine

/-! ### What a failing command changes -/

/-- What an error leaves of the state it is raised in: CFG_ZERO_L drops the configuration and the result's validity
with it (R122), and the other codes record themselves and do no more (R224). -/
def stateAfterError (code : ErrCode) (s : State) : State :=
  if code = .cfgZeroL then
    raiseError .cfgZeroL { s with cfgL := 0#16, cfgValid := false, resultValid := false }
  else raiseError code s

/-- A command whose cause of R220 is met has one of the four failing effects, that of its own code. -/
theorem CommandEffect.eq_stateAfterError {c : Command} {s t : State} {code : ErrCode} (h : CommandEffect s c t)
    (herror : commandError c s = some code) : t = stateAfterError code s := by
  cases h with
  | nop | clear => cases herror
  | setl hl => simp [commandError, hl] at herror
  | setn hnb => simp [commandError, hnb.not_gt] at herror
  | convert hv => simp [commandError, hv] at herror
  | setlZero | illegal _ => cases herror; rfl
  | setnLong hnb => cases (if_pos hnb).symm.trans herror; rfl
  | convertUnconfigured hv => cases (if_neg (Bool.eq_false_iff.1 hv)).symm.trans herror; rfl

theorem performCommand_of_commandError {c : Command} {s : State} {code : ErrCode}
    (herror : commandError c s = some code) : performCommand c s = .next (stateAfterError code s) := by
  obtain ⟨t, ht⟩ := performCommand_total c s
  rw [ht, (commandEffect_of_performCommand ht).eq_stateAfterError herror]

/-- Settles O45: the command's state after its error, with the code of CFG_ZERO_L as its number. -/
theorem errorChangesOnlyItsOwn : Obligations.ErrorChangesOnlyItsOwn :=
  fun c s _ herror => (exec_instrOfCommand c s).trans (performCommand_of_commandError herror)

/-- Settles O25: the guard of CONVERT fails, and a valid result would be a configured one (R42). -/
theorem unconfiguredConvertRaisesNoConfig : Obligations.UnconfiguredConvertRaisesNoConfig := by
  refine fun s hs => ⟨execConvert_unconfigured hs, fun hinv => Bool.eq_false_iff.2 fun hvalid => ?_⟩
  obtain ⟨hconfigured, -⟩ := hinv.valid_result hvalid
  exact Bool.eq_false_iff.1 hs hconfigured

/-! ### The order of the checks -/

/-- Past the bus check, a write to CMD of a command that fails leaves that command's error, and completes with OKAY
(R190, R229). -/
theorem step_failingCmdWrite {s : State} {x : Access} {rest : List HostEvent} {w : Word} {code : ErrCode}
    (hp : s.pending = .access x :: rest) (hdecode : decodeAccess x = .wrCmd w)
    (herror : commandError (decodeCommand w) s = some code) :
    step s = .next (respond .okay (stateAfterError code { s with pending := rest })) := by
  rw [step_access hp, hdecode]
  exact exec_wrCmd (performCommand_of_commandError (s := { s with pending := rest }) herror)

/-- A command with no cause of R220 leaves ERR = 0 at 0. -/
theorem CommandEffect.err_of_commandError_none {c : Command} {s t : State} (h : CommandEffect s c t)
    (hnone : commandError c s = none) (herr : s.err = false) : t.err = false := by
  cases h with
  | clear => rfl
  | nop | setl _ | setn _ | convert _ => exact herr
  | setlZero | illegal _ => cases hnone
  | setnLong hnb => simp [commandError, hnb] at hnone
  | convertUnconfigured hv => simp [commandError, hv] at hnone

/-- An event that performs no failing command raises no error: a DIGEST write and an answer, BUSERR among them, touch
no error bit (R227). -/
theorem EventEffect.err_of_errorOf_none {x : Access} {s t : State} (h : EventEffect s (.access x) t)
    (hnone : errorOf (decodeAccess x) s = none) (herr : s.err = false) : t.err = false := by
  cases h with
  | command r hcmd _ hu =>
    rw [errorOf, hcmd] at hnone
    exact hu.err_of_commandError_none hnone herr
  | digestWrite _ | answer _ _ _ => exact herr

/-- Settles O38: a refused access stops at the bus check (`step_refused`); past it, the four failing writes to CMD
each leave the state after the one error of their command. -/
theorem checksRunInOrder : Obligations.ChecksRunInOrder := by
  intro s x rest hp
  refine ⟨step_refused hp, fun hsize haddr w hop hcmd => ?_, fun hnone herr => ?_⟩
  · have hdecode : decodeAccess x = .wrCmd w := by
      obtain ⟨-, hforms⟩ := accessDecodedByDescriptor
      obtain ⟨-, hwrite, -⟩ := hforms x
      obtain ⟨hwrCmd, -⟩ := hwrite hsize haddr w hop
      exact hwrCmd hcmd
    have hfails {code : ErrCode} := step_failingCmdWrite (code := code) hp hdecode
    refine ⟨fun hw => ?_, fun hw => ?_, fun nb hw hnb => ?_, fun hw hs => ?_⟩ <;> rw [hw] at hfails
    · exact hfails rfl
    · exact hfails rfl
    · exact hfails (if_pos hnb)
    · exact hfails (if_neg (Bool.eq_false_iff.1 hs))
  · obtain ⟨t, hstep, heff⟩ := step_effect hp
    exact ⟨t, hstep, heff.err_of_errorOf_none hnone herr⟩

end Sys2Proof.Machine
end

section
/-! PROOFS. Every access completes, what a reset leaves, and which latency an access takes (70_reset_and_hazards.md
R260, R261, R270, R275, R276). -/

namespace Sys2Proof.Machine

/-! ### Completion and reset -/

/-- No operation changes which events come after it (R66; log 1). -/
theorem exec_pending {i : Instr} {s t : State} (h : exec i s = .next t) : t.pending = s.pending := by
  rcases exec_cases h with ⟨c, u, -, hu, rfl | rfl⟩ | ⟨k, v, -, rfl⟩ | ⟨-, -, r, rfl⟩
  · exact (commandEffect_of_performCommand hu).pending
  · exact (commandEffect_of_performCommand hu).pending
  · rfl
  · rfl

/-- Settles O11: `exec` and `step` are total, and neither touches the events after the one it performs. -/
theorem everyAccessCompletes : Obligations.EveryAccessCompletes := by
  refine ⟨fun i s => ?_, fun s e rest hp => ?_⟩
  · obtain ⟨t, ht⟩ := exec_total i s
    exact ⟨t, ht, exec_pending ht⟩
  · obtain ⟨t, ht, heff⟩ := step_effect hp
    exact ⟨t, ht, heff.pending⟩

/-- Settles O13: the step is `hardReset`, and its DIGEST is the draw of the new `resetCount`. -/
theorem resetEventGivesResetValues : Obligations.ResetEventGivesResetValues :=
  fun _ _ hp => ⟨_, step_reset hp, rfl, rfl, rfl, rfl, rfl, rfl, rfl, rfl, rfl,
    readDigestByte_drawDigest _, rfl, rfl, rfl⟩

/-! ### Timing -/

/-- The accesses that write `w` to CMD, read off what the operation is encoded as (R97). -/
theorem decodeAccess_eq_wrCmd_iff (x : Access) (w : Word) :
    decodeAccess x = .wrCmd w ↔ x.op = .write w ∧ x.size = .word ∧ x.addr % 4096 = 0x008 := by
  constructor
  · intro h
    have hencode : Encoded.access (wordAccess (.write w) 0x008) = .access { x with addr := x.addr % 4096 } := by
      rw [← encode_decodeAccess, h, encode]
    injection hencode with hx
    injection hx with hop hsize haddr
    exact ⟨hop.symm, hsize.symm, haddr.symm⟩
  · rintro ⟨hop, hsize, haddr⟩
    rw [← decodeAccess_mod, hop, hsize, haddr]
    exact decodeAccess_commandWrite w

/-- No access is a bare command, so CONVERT is reached by the write of its word to CMD only (R27, R190). -/
theorem performsConvert_iff (x : Access) :
    performedCommand (decodeAccess x) = some .convert ↔ decodeAccess x = .wrCmd 0x03000000#32 := by
  constructor
  · intro h
    rcases performedCommand_cases h with hbare | ⟨w, hwrite, hdecode⟩
    · have hencode := encode_decodeAccess x
      rw [hbare] at hencode
      cases hencode
    · obtain rfl : w = 0x03000000#32 := BitVec.eq_of_toNat_eq ((decodeCommand_eq_iff rfl).1 hdecode)
      exact hwrite
  · intro h
    rw [h]
    rfl

theorem accessCycles_eq_ite (x : Access) :
    accessCycles x =
      if x.op = .write 0x03000000#32 ∧ x.size = .word ∧ x.addr % 4096 = 0x008 then Config.convertLatency
      else Config.accessLatency := by
  simp only [accessCycles, performsConvert_iff, decodeAccess_eq_wrCmd_iff]

/-- Settles O49: the write of the CONVERT word to CMD is the one access that takes CONVERT_LATENCY. -/
theorem timingIndependentOfData : Obligations.TimingIndependentOfData := by
  have hother (x : Access) (h : ¬ (x.op = .write 0x03000000#32 ∧ x.size = .word ∧ x.addr % 4096 = 0x008)) :
      accessCycles x = Config.accessLatency := (accessCycles_eq_ite x).trans (if_neg h)
  refine ⟨fun x hop hsize haddr => ?_, hother, fun size a v v' ha => ?_, fun x x' hx hx' => ?_,
    fun x hrefused => hother x fun ⟨_, hsize, haddr⟩ => ?_⟩
  · exact (accessCycles_eq_ite x).trans (if_pos ⟨hop, hsize, haddr⟩)
  · rw [hother _ fun ⟨_, _, haddr⟩ => ha haddr, hother _ fun ⟨_, _, haddr⟩ => ha haddr]
  · exact (if_pos hx).trans (if_pos hx').symm
  · exact hrefused.elim (· hsize) fun hmisaligned => hmisaligned (by omega)

end Sys2Proof.Machine
end

section
/-! PROOFS. Host programs, run access by access: what is still to come changes nothing that an access does (20_memory.md
R66), so the runs of two programs compose; and the program of R264, which configures, loads and converts. -/

namespace Sys2Proof.Machine

/-! ### An operation does not read the events to come -/

theorem CommandEffect.performCommand_withEvents {c : Command} {s t : State} (h : CommandEffect s c t)
    (es : List HostEvent) : performCommand c (s.withEvents es) = .next (t.withEvents es) := by
  cases h with
  | nop | setlZero | clear | illegal _ => rfl
  | setl hl => exact if_neg hl
  | setn hnb => exact if_pos hnb
  | setnLong hnb => exact if_neg (Nat.not_le_of_lt hnb)
  | convert hv => exact if_pos hv
  | convertUnconfigured hv => exact if_neg (Bool.eq_false_iff.1 hv)

theorem performCommand_withEvents {c : Command} {s t : State} (h : performCommand c s = .next t)
    (es : List HostEvent) : performCommand c (s.withEvents es) = .next (t.withEvents es) :=
  (commandEffect_of_performCommand h).performCommand_withEvents es

theorem exec_withEvents {i : Instr} {s t : State} (h : exec i s = .next t) (es : List HostEvent) :
    exec i (s.withEvents es) = .next (t.withEvents es) := by
  cases i with
  | nop => exact performCommand_withEvents (c := .nop) h es
  | setl l => exact performCommand_withEvents (c := .setl l) h es
  | setn nb => exact performCommand_withEvents (c := .setn nb) h es
  | convert => exact performCommand_withEvents (c := .convert) h es
  | clear => exact performCommand_withEvents (c := .clear) h es
  | illegalCmd w => exact performCommand_withEvents (c := .illegal w) h es
  | wrCmd w =>
    obtain ⟨u, hu⟩ := performCommand_total (decodeCommand w) s
    obtain rfl : respond .okay u = t := by simpa [exec_wrCmd hu] using h
    exact exec_wrCmd (performCommand_withEvents hu es)
  | _ => cases h; rfl

theorem step_withEvents {s t : State} {e : HostEvent} {es : List HostEvent}
    (h : step (s.withEvents (e :: es)) = .next t) (fs : List HostEvent) :
    step (s.withEvents (e :: fs)) = .next (t.withEvents fs) := by
  cases e with
  | reset => rw [step_reset rfl] at h ⊢; cases h; rfl
  | access x => rw [step_access rfl] at h ⊢; exact exec_withEvents h fs

/-- The events presented after those of a run do not change it (R66). -/
theorem runSteps_withEvents_append {s t : State} {es : List HostEvent}
    (h : runSteps es.length (s.withEvents es) = .next t) (fs : List HostEvent) :
    runSteps es.length (s.withEvents (es ++ fs)) = .next (t.withEvents fs) := by
  induction es generalizing s with
  | nil => cases h; rfl
  | cons e es ih =>
    obtain ⟨u, hu, heff⟩ := step_effect (s := s.withEvents (e :: es)) rfl
    obtain rfl : u.pending = es := heff.pending
    rw [List.length_cons, runSteps, hu] at h
    rw [List.length_cons, runSteps, List.cons_append, step_withEvents hu]
    exact ih (s := u) h

/-! ### The bytes a CONVERT reads -/

/-- A DIGEST that holds a byte string of DLEN bytes holds no other for a CONVERT (R147). -/
theorem digestBytes_eq {s : State} {bytes : List Byte} (hlen : bytes.length ≤ 64)
    (hdlen : s.dlen.toNat = bytes.length)
    (hbytes : ∀ (i : Fin 64) (b : Byte), bytes[i.val]? = some b → readDigestByte s i = b) :
    digestBytes s = bytes := by
  have hlength : (digestBytes s).length = bytes.length := (digestBytes_length (by omega)).trans hdlen
  refine List.ext_getElem hlength fun i _ hi => ?_
  have hheld := hbytes ⟨i, by omega⟩ bytes[i] (List.getElem?_eq_getElem hi)
  have hread := digestBytes_getElem? (s := s) (i := ⟨i, by omega⟩) (show i < s.dlen.toNat by omega)
  obtain ⟨_, hget⟩ := List.getElem?_eq_some_iff.1 hread
  exact hget.trans hheld

end Sys2Proof.Machine

namespace Sys2Proof.Assembler

open Sys2Proof.Machine

/-! ### Runs of host programs -/

/-- The run of a host program: its accesses are presented, and one step is taken for each. -/
def runOps (ops : List HostOp) (s : State) : Outcome :=
  runSteps ops.length (s.withEvents (ops.map fun o => .access o.access))

theorem runOps_append {a b : List HostOp} {s u t : State} (ha : runOps a s = .next u) (hb : runOps b u = .next t) :
    runOps (a ++ b) s = .next t := by
  unfold runOps at ha hb ⊢
  rw [← List.length_map (fun o : HostOp => HostEvent.access o.access)] at ha
  have hfirst := runSteps_withEvents_append ha (b.map fun o => .access o.access)
  rw [List.length_map] at hfirst
  rw [List.map_append, List.length_append, runSteps_add _ _ hfirst, hb]

/-- `WR CMD, w` performs the command of `w` and is answered OKAY (R190). -/
theorem runOps_cmdOp {w : Word} {s u : State} (h : performCommand (decodeCommand w) s = .next u) :
    runOps [cmdOp w] s = .next ((respond .okay u).withEvents []) := by
  have hstep : step (s.withEvents [.access (cmdOp w).access]) = .next ((respond .okay u).withEvents []) := by
    rw [step_access rfl, (decodeAccess_eq_wrCmd_iff _ w).2 ⟨rfl, rfl, rfl⟩]
    exact exec_wrCmd (performCommand_withEvents h [])
  simp only [runOps, List.map, List.length, runSteps, hstep]

/-! ### Configure, load, convert -/

theorem assemble_cfg {l nb : Nat} (hl : l ≤ 65535) (hnb : nb ≤ 255) :
    assemble (.cfg l nb) =
      .ok [cmdOp (0x01000000#32 ||| BitVec.ofNat 32 l), cmdOp (0x02000000#32 ||| BitVec.ofNat 32 nb)] := by
  simp only [assemble, setlOps, setnOps, if_pos hl, if_pos hnb]
  rfl

/-- SETL of a legal length (R121). -/
theorem runOps_setl {l : Nat} (hpos : 1 ≤ l) (hl : l ≤ 65535) (s : State) :
    ∃ b : BitVec 16, b.toNat = l ∧ runOps [cmdOp (0x01000000#32 ||| BitVec.ofNat 32 l)] s =
      .next ((respond .okay { s with cfgL := b, cfgValid := true, resultValid := false }).withEvents []) := by
  have hb : (BitVec.ofNat 16 l).toNat = l := by rw [BitVec.toNat_ofNat, Nat.mod_eq_of_lt (by omega)]
  have hnonzero : BitVec.ofNat 16 l ≠ 0#16 := fun hzero => by simp [hzero] at hb; omega
  refine ⟨_, hb, runOps_cmdOp ?_⟩
  rw [decodeCommand_setlWord hl]
  exact setlConfiguresLegalLength _ s hnonzero

/-- SETN of a legal length (R126). -/
theorem runOps_setn {nb : Nat} (hnb : nb ≤ 64) (s : State) :
    ∃ d : BitVec 7, d.toNat = nb ∧ runOps [cmdOp (0x02000000#32 ||| BitVec.ofNat 32 nb)] s =
      .next ((respond .okay { s with dlen := d, resultValid := false }).withEvents []) := by
  have hb : (BitVec.ofNat 8 nb).toNat = nb := by rw [BitVec.toNat_ofNat, Nat.mod_eq_of_lt (by omega)]
  obtain ⟨d, hd, hexec⟩ := setnConfiguresLegalLength (BitVec.ofNat 8 nb) s (by omega)
  refine ⟨d, hd.trans hb, runOps_cmdOp ?_⟩
  rw [decodeCommand_setnWord (by omega)]
  exact hexec

/-- CFG of two legal lengths configures both, and keeps ERR and ERRCODE (R99). -/
theorem runOps_cfg {l nb : Nat} (hpos : 1 ≤ l) (hl : l ≤ 65535) (hnb : nb ≤ 64) (s : State) :
    ∃ t, runOps [cmdOp (0x01000000#32 ||| BitVec.ofNat 32 l), cmdOp (0x02000000#32 ||| BitVec.ofNat 32 nb)] s =
        .next t ∧
      t.cfgValid = true ∧ t.cfgL.toNat = l ∧ t.dlen.toNat = nb ∧ t.err = s.err ∧ t.errcode = s.errcode := by
  obtain ⟨b, hb, hsetl⟩ := runOps_setl hpos hl s
  obtain ⟨d, hd, hsetn⟩ := runOps_setn hnb _
  exact ⟨_, runOps_append hsetl hsetn, rfl, hb, hd, rfl, rfl⟩

/-- A CONVERT of a configured state (R140). -/
theorem runOps_convert {s : State} (hs : s.cfgValid = true) :
    runOps [cmdOp 0x03000000#32] s = .next ((respond .okay { s with
      result := convertResult s, shamt := convertShamt s, shifted := convertShifted s,
      resultValid := true }).withEvents []) :=
  runOps_cmdOp (exec_convert_configured hs)

/-- Settles O58: CFG configures both lengths, LDDIG loads the bytes and keeps the configuration, and the CONVERT of
what they leave has the digest's value to shift. -/
theorem conversionSequenceConverts : Obligations.ConversionSequenceConverts := by
  intro l bytes s hpos hl hlen
  obtain ⟨u, hcfg, hvalid, hL, hn, herr, herrcode⟩ := runOps_cfg hpos hl hlen s
  obtain ⟨ops, v, hops, -, hload, hbytes, -, -, hcfgL, hdlen, hcfgValid, -, -, -, hkeptErr, hkeptCode, -⟩ :=
    lddigLoadsTheDigest bytes u hlen
  rw [← hcfgL] at hL
  rw [← hdlen] at hn
  have hvalue : digestValue v = beValue bytes := congrArg beValue (digestBytes_eq hlen hn hbytes)
  refine ⟨_, ops, _, _, assemble_cfg hl (by omega), hops, rfl,
    runOps_append (runOps_append hcfg hload) (runOps_convert (hcfgValid.trans hvalid)), rfl, hL, hn, ?_, ?_,
    hkeptErr.trans herr, hkeptCode.trans herrcode⟩
  · refine (convertResult_toNat (s := v) (by omega)).trans ?_
    rw [hvalue, hL, hn]
    split_ifs with hlong
    · rfl
    · rw [Nat.sub_eq_zero_of_le (by omega), pow_zero, Nat.div_one]
  · rw [← hL, ← hn]
    exact convertShamt_toNat (by omega)

end Sys2Proof.Assembler
end

section
/-! PROOFS. Table words written out (30_encoding.md R92, R94, R97; log 6), each the encoding of the operation it
stands for, and the invariants at reset (10_state.md R41 to R44). -/

namespace Sys2Proof

/-- A table word that spells the encoding of a well-formed operation is read as that operation. -/
theorem decodeTableWord_of_encodedOfTableWord {nbits w : Nat} {i : Instr} (hi : i.wellFormed = true)
    (hw : encodedOfTableWord nbits w = encode i) : decodeTableWord nbits w = some i := by
  rw [decodeTableWord, hw, decode_encode hi]

/-- Settles O1: each word spells the encoding of its operation, and decoding undoes the encoder. -/
theorem writtenOutWordsDecode : Obligations.WrittenOutWordsDecode := by
  unfold Obligations.WrittenOutWordsDecode
  and_intros
  all_goals exact decodeTableWord_of_encodedOfTableWord rfl rfl

/-- Settles O50: RESULT_VALID and the registers of R41, R43 and R44 are all 0 after a reset. -/
theorem resetMeetsInvariants : Obligations.ResetMeetsInvariants :=
  Machine.reset_stateInv

end Sys2Proof
end
